-- ==== Sys2Proof/Word.lean ====
section
/-! DEFINITION. The widths of the values the block handles (spec 00_scope.md rules R5 to R8): unsigned bit vectors only. -/

namespace Sys2Proof

/-- One byte of a frame, and one byte exchanged with the transport. -/
abbrev Byte := BitVec 8

/-- A register value of the DAC chip: `DATA_W` = 20 bits (00_scope.md R5). -/
abbrev Data := BitVec 20

/-- A frame: `FRAME_W` = 24 bits (00_scope.md R5). -/
abbrev FrameWord := BitVec 24

/-- A command word `{CMD[3:0], ARG[31:0]}`: 36 bits (30_encoding.md R74). -/
abbrev CommandWord := BitVec 36

/-- A command code `CMD` (30_encoding.md R74). -/
abbrev Code := BitVec 4

/-- A command argument: `ARG_W` = 32 bits (00_scope.md R5). -/
abbrev Arg := BitVec 32

/-- A frame address `A`: `ADDR_W` = 3 bits (00_scope.md R5). -/
abbrev Addr := BitVec 3

/-- Three bytes in transmit or receive order: a frame as it is carried (30_encoding.md R70), and `RXBUF[0..2]`
(10_state.md R21). -/
structure Bytes3 where
  byte0 : Byte
  byte1 : Byte
  byte2 : Byte
  deriving DecidableEq, Repr

end Sys2Proof
end

