-- ==== Sys2Proof/Config.lean ====
section
/-! DEFINITION. What an installation fixes (the OPEN parameters of spec 00_scope.md rule R5) and the free values. The parameters that R5
gives a value (DIR_READ, address codes, CFG_BASE, LC_SHIFT, DUMMY) are in Machine/Operands.lean. -/

namespace Sys2Proof

/-- What the transport attaches to a failure: "the opaque value `FAILINFO`, of a type the transport defines"
(60_exceptions.md R200). Held as a byte string, empty where nothing is attached. DESIGN CHOICE (log 1). -/
abbrev FailInfo := List Byte

/-- The answer of one `Xfer` request: the byte received, or `FAIL` with what the transport attaches to it
(60_exceptions.md R215). -/
inductive XferAnswer where
  | byte (r : Byte)
  | fail (info : FailInfo)
  deriving DecidableEq, Repr, Inhabited

/-- The order of bits inside one byte on the wire (20_memory.md R52). The spec gives the parameter no set of values (91 N6, 92 D15); that it is one
of these two is the model's. DESIGN CHOICE (log 9). -/
inductive BitOrder where
  | msbFirst
  | lsbFirst
  deriving DecidableEq, Repr, Inhabited

/-- `DEVICE_ID`, OPEN: the chip-select identity this block passes to the transport (00_scope.md R5, 92 D16; log 9). -/
opaque Config.deviceId : Nat

/-- `BIT_ORDER`, OPEN and owned by the transport; "no rule of the block depends on it" (20_memory.md R52, 92 D15; log 9). -/
opaque Config.bitOrder : BitOrder

/-- FREE VALUE: the answer of the `n`-th transfer where the state's list `answers` does not give it. "Each `Xfer` answer is a draw (any
byte, or `FAIL`) under no law" (92 D19, 93 I6; log 2). -/
opaque Config.freeAnswer : Nat → XferAnswer

end Sys2Proof
end

