-- ==== Sys2Proof/Syntax.lean ====
section
/-! DEFINITION. The instructions: one constructor for each row of spec/opcode_table.json (nine CMD36 commands, eight FRAME24 frame kinds). -/

namespace Sys2Proof

/-- The instructions. A command keeps its whole 32-bit `ARG`, also where it ignores it, because accepting it latches `ARG`
(40_frame_codec.md R113). -/
inductive Instr where
  /-- APPLY_CONFIG, CMD 0x1 (41_configuration.md R136): `arg` is the range selector. -/
  | applyConfig (arg : Arg)
  /-- READ_CONFIG, CMD 0x2 (41_configuration.md R137): `arg` is ignored. -/
  | readConfig (arg : Arg)
  /-- TRIGGER_UPDATE, CMD 0x3 (42_triggers.md R162): `arg` is ignored. -/
  | triggerUpdate (arg : Arg)
  /-- TRIGGER_CLEAR, CMD 0x4 (42_triggers.md R163): `arg` is ignored. -/
  | triggerClear (arg : Arg)
  /-- TRIGGER_RESET, CMD 0x5 (42_triggers.md R164): `arg` is ignored. -/
  | triggerReset (arg : Arg)
  /-- SET_OUTPUT, CMD 0x6 (43_register_accessors.md R180): `arg` is the output code. -/
  | setOutput (arg : Arg)
  /-- GET_OUTPUT, CMD 0x7 (43_register_accessors.md R181): `arg` is ignored. -/
  | getOutput (arg : Arg)
  /-- SET_CLEAR, CMD 0x8 (43_register_accessors.md R182): `arg` is the clear code. -/
  | setClear (arg : Arg)
  /-- GET_CLEAR, CMD 0x9 (43_register_accessors.md R183): `arg` is ignored. -/
  | getClear (arg : Arg)
  /-- W_DAC, `0 001 d` (30_encoding.md R79, R80): write the DAC data register. -/
  | wDac (d : Data)
  /-- W_CTRL, `0 010 d`: write the control register. -/
  | wCtrl (d : Data)
  /-- W_CLR, `0 011 d`: write the clear register. -/
  | wClr (d : Data)
  /-- W_SWCTRL, `0 100 d`: write the software-control register. -/
  | wSwctrl (d : Data)
  /-- R_DAC, `1 001 0`: read command phase, DAC data register. -/
  | rDac
  /-- R_CTRL, `1 010 0`: read command phase, control register. -/
  | rCtrl
  /-- R_CLR, `1 011 0`: read command phase, clear register. -/
  | rClr
  /-- DUMMY, `0 000 0`: the readback phase's clocking bytes. -/
  | dummy
  deriving DecidableEq, Repr

/-- An encoded instruction, in one of the two encodings of 30_encoding.md: a command word of the command port (R74) or a frame (R70). -/
inductive CodeWord where
  | cmd (w : CommandWord)
  | frame (w : FrameWord)
  deriving DecidableEq, Repr

/-- Why a word is no instruction. -/
inductive DecodeError where
  /-- `CMD` is 0x0 or 0xA to 0xF (30_encoding.md R83). -/
  | reservedCommand (code : Code)
  /-- A frame that is none of the eight kinds (30_encoding.md R82). -/
  | reservedFrame (w : FrameWord)
  /-- Not three bytes: a frame "is exactly 24 bits" (30_encoding.md R87). -/
  | frameLength (n : Nat)
  deriving DecidableEq, Repr

end Sys2Proof
end

