-- ==== Sys2Proof/Machine/State.lean ====
section
/-! DEFINITION. The machine's state as plain data, the reasons a step can stop, and the state after reset. -/

namespace Sys2Proof.Machine

/-- The sequencer register `STATE` (10_state.md R21, R22). -/
inductive SeqState where
  /-- No command is running and no transport request is issued. -/
  | idle
  /-- A command is running and issues the events of its script, one a step. -/
  | busy
  deriving DecidableEq, Repr

/-- One event of a command's script (40_frame_codec.md R106, R108). -/
inductive Event where
  /-- `SEL`: ask the transport to assert chip-select. -/
  | sel
  /-- `DESEL`: ask the transport to deassert chip-select. -/
  | desel
  /-- `TX(b)`: exchange byte `b` and discard the byte received. -/
  | tx (b : Byte)
  /-- `CAP(j)`: exchange DUMMY and keep the byte received in `RXBUF[j]`. -/
  | cap (j : Fin 3)
  deriving DecidableEq, Repr

/-- One entry of the transport trace (00_scope.md R11): `SEL`, `DESEL`, or `TX(b)` with what the exchange answered beside it. -/
inductive TraceEvent where
  | sel
  | desel
  | tx (b : Byte) (rx : XferAnswer)
  deriving DecidableEq, Repr

/-- One request on the transport port (60_exceptions.md R215). -/
inductive TransportRequest where
  /-- `Select()`: drive chip-select of device `id` low. -/
  | select (id : Nat)
  /-- `Deselect()`: drive chip-select of device `id` high. -/
  | deselect (id : Nat)
  /-- `Xfer(b)`. -/
  | xfer (b : Byte)
  deriving DecidableEq, Repr

/-- The machine. The first ten fields are the block's registers (10_state.md R21, and FAILINFO of 60_exceptions.md R216); the rest holds the
block's surroundings as data and is the model's own (INVENTORY.md, State). -/
structure State where
  /-- `STATE`. -/
  seqState : SeqState
  /-- `CMD`, the code of the running command. -/
  cmd : Code
  /-- `ARG`, the argument of the running command. -/
  arg : Arg
  /-- `step`, the index of the next transport event (10_state.md R24). -/
  step : BitVec 4
  /-- `RXBUF[0..2]`, the bytes captured in a readback phase. -/
  rxbuf : Bytes3
  /-- `RESULT`, the value of the last read command that completed. -/
  result : Data
  /-- `ERR`: the last command ended by TransportFailure. -/
  err : Bool
  /-- `ERR_STEP`, the step of the last TransportFailure. -/
  errStep : BitVec 4
  /-- `DONE`: the last accepted command has ended. -/
  done : Bool
  /-- `FAILINFO` of the last abort (log 1). -/
  failInfo : FailInfo
  /-- MODEL'S OWN: the transport trace, oldest event first (00_scope.md R11; log 3). -/
  trace : List TraceEvent
  /-- MODEL'S OWN: the command words the caller holds on the command port, the one presented first (60_exceptions.md R217; log 4). -/
  port : List CommandWord
  /-- MODEL'S OWN: the transport's coming `Xfer` answers (60_exceptions.md R219; log 2). -/
  answers : List XferAnswer
  /-- MODEL'S OWN: the number of `Xfer` answers taken, the counter of the free value (log 2). -/
  draws : Nat
  /-- MODEL'S OWN: the level of the reset input at the coming steps; not asserted past the end (70_reset_and_hazards.md R230; log 5). -/
  resetLine : List Bool
  /-- MODEL'S OWN: a frame placed by `withFetchWord` in place of the script's frame at this place; no step sets it (log 6). -/
  inject : Option FrameWord
  deriving DecidableEq, Repr

/-- What stops the machine with a fault. -/
inductive Fault where
  /-- Raised by a command's meaning when `STATE` is BUSY, the command is the running one and `step` is past the end of its script: neither
  R114 nor R115 gives a step. No run reaches it (10_state.md R24). Safe (log 13). -/
  | noRuleApplies
  deriving DecidableEq, Repr

/-- What the model gives no meaning. -/
inductive Refusal where
  /-- Raised by an arm of `exec` for an instruction without a meaning yet; no arm does. Safe. -/
  | notModelled (mnemonic : String)
  /-- Raised by `fetch` on a command word whose code is reserved: "a model refuses such a command" (30_encoding.md R83). Safe (log 8). -/
  | reservedCommand (code : Code)
  /-- Raised by `fetch` on a placed frame that is none of the eight kinds (30_encoding.md R82, 93 I1), or that must not be
issued where it was placed (30_encoding.md R79; 70_reset_and_hazards.md R240, 93 I2). Safe (log 6, log 18). -/
  | reservedFrame (w : FrameWord)
  deriving DecidableEq, Repr

/-- What fetching found: nothing to run, an instruction with the state it runs in, or a word without a meaning. -/
inductive Fetched where
  | nothing
  | run (i : Instr) (s : State)
  | refuse (r : Refusal)
  deriving DecidableEq, Repr

/-- The machine right after reset: the registers as 10_state.md R43 lists them (FAILINFO: log 1), nothing in the trace, no command presented,
no answer given in advance. -/
def State.reset : State where
  seqState := .idle
  cmd := 0x0
  arg := 0x00000000
  step := 0
  rxbuf := { byte0 := 0x00, byte1 := 0x00, byte2 := 0x00 }
  result := 0x00000
  err := false
  errStep := 0
  done := false
  failInfo := []
  trace := []
  port := []
  answers := []
  draws := 0
  resetLine := []
  inject := none

end Sys2Proof.Machine
end

