-- ==== Sys2Proof/Machine/Flags.lean ====
section
/-! DEFINITION. The block's only flags, ERR and DONE, with ERR_STEP (spec 10_state.md R25): who sets and who clears them. -/

namespace Sys2Proof.Machine

/-- Accepting a command clears ERR, ERR_STEP and DONE (40_frame_codec.md R113). -/
def State.clearFlags (s : State) : State := { s with err := false, errStep := 0, done := false }

/-- Completion sets DONE and leaves ERR (40_frame_codec.md R115). -/
def State.setDone (s : State) : State := { s with done := true }

/-- An abort at step `k` sets ERR, ERR_STEP and DONE (60_exceptions.md R202). -/
def State.setError (k : BitVec 4) (s : State) : State := { s with err := true, errStep := k, done := true }

end Sys2Proof.Machine
end

