-- ==== Sys2Proof/Machine/Operands.lean ====
section
/-! DEFINITION. The parameters of spec 00_scope.md R5 that have a value, and the combinational units: AMUX, FENC, FDEC (40_frame_codec.md),
LC, CFGA, CFGD, LCINV (41_configuration.md), the trigger constants (42_triggers.md R160). -/

namespace Sys2Proof.Machine

/-- `DIR_READ`: the direction bit of a read (00_scope.md R5, 30_encoding.md R71). -/
def dirRead : BitVec 1 := 1

/-- The direction bit of a write (30_encoding.md R71). -/
def dirWrite : BitVec 1 := 0

/-- `DUMMY`: the byte sent in a readback phase (00_scope.md R5, 92 D7). -/
def dummyByte : Byte := 0x00

/-- `A_DAC` (00_scope.md R5). -/
def addrDac : Addr := 1

/-- `A_CTRL` (00_scope.md R5). -/
def addrCtrl : Addr := 2

/-- `A_CLR` (00_scope.md R5; the spec's decision D4, log 10). -/
def addrClr : Addr := 3

/-- `A_SWCTRL` (00_scope.md R5). -/
def addrSwctrl : Addr := 4

/-- `trunc20(v) = v & 0xFFFFF` for any unsigned `v` (00_scope.md R9). -/
def trunc20 (v : Nat) : Data := BitVec.ofNat 20 (v &&& 0xFFFFF)

/-- AMUX: the register selection to the frame address (40_frame_codec.md R100). -/
def amux (regsel : BitVec 2) : Addr :=
  match regsel.toNat with
  | 0 => addrDac
  | 1 => addrCtrl
  | 2 => addrClr
  | _ => addrSwctrl

/-- FENC: direction, address and value to the three bytes of a frame (40_frame_codec.md R101). -/
def fenc (rw : BitVec 1) (a : Addr) (v : Nat) : Bytes3 :=
  let d := trunc20 v
  { byte0 := (rw.setWidth 8 <<< 7) ||| (a.setWidth 8 <<< 4) ||| (d.extractLsb' 16 4).setWidth 8
    byte1 := d.extractLsb' 8 8
    byte2 := d.extractLsb' 0 8 }

/-- FDEC: three received bytes to a 20-bit value, the top nibble of the first discarded (40_frame_codec.md R103). -/
def fdec (r : Bytes3) : Data :=
  (((r.byte0.setWidth 24 <<< 16) ||| (r.byte1.setWidth 24 <<< 8) ||| r.byte2.setWidth 24) &&& 0x0FFFFF#24).setWidth 20

/-- LC: the range selector to its linearity-compensation code; the whole 32-bit argument is compared (41_configuration.md R130,
30_encoding.md R77). -/
def lc (sel : Arg) : BitVec 4 :=
  if sel = 1 then 0b1001
  else if sel = 2 then 0b1010
  else if sel = 3 then 0b1011
  else if sel = 4 then 0b1100
  else 0b0000

/-- `CFG_BASE` (41_configuration.md R131, R132). -/
def cfgBase : Data := 0x00012

/-- `LC_SHIFT` (00_scope.md R5). -/
def lcShift : Nat := 6

/-- CFGA: the range selector to the configuration word (41_configuration.md R131). -/
def cfga (sel : Arg) : Data := cfgBase ||| ((lc sel).setWidth 20 <<< lcShift)

/-- LCINV: a legal code back to its selector, `none` for the codes "undefined by the chip" (41_configuration.md R135). -/
def lcinv (c : BitVec 4) : Option Arg :=
  match c.toNat with
  | 0b0000 => some 0
  | 0b1001 => some 1
  | 0b1010 => some 2
  | 0b1011 => some 3
  | 0b1100 => some 4
  | _ => none

end Sys2Proof.Machine

namespace Sys2Proof

/-- The fields of the control register (10_state.md R29; the places of the single-bit fields are the spec's decision D6, log 10). -/
structure ConfigFields where
  rsvdLo : BitVec 1
  /-- 1 = external amplifier. -/
  amp : BitVec 1
  /-- 1 = ground clamp enabled. -/
  gclamp : BitVec 1
  /-- 1 = tristate enabled. -/
  tri : BitVec 1
  /-- 1 = binary, 0 = two's-complement. -/
  coding : BitVec 1
  /-- 1 = software-disable asserted. -/
  swdis : BitVec 1
  lincomp : BitVec 4
  rsvdHi : BitVec 10
  sel : Option Arg
  deriving DecidableEq, Repr

end Sys2Proof

namespace Sys2Proof.Machine

/-- CFGD: a configuration word split into its fields, nothing checked (41_configuration.md R134). -/
def cfgd (w : Data) : ConfigFields where
  rsvdLo := w.extractLsb' 0 1
  amp := w.extractLsb' 1 1
  gclamp := w.extractLsb' 2 1
  tri := w.extractLsb' 3 1
  coding := w.extractLsb' 4 1
  swdis := w.extractLsb' 5 1
  lincomp := w.extractLsb' 6 4
  rsvdHi := w.extractLsb' 10 10
  sel := lcinv (w.extractLsb' 6 4)

/-- UPDATE, CLEAR and RESET of the software-control register, and its idle value (42_triggers.md R160). -/
def triggerUpdateWord : Data := 0x00001

/-- See `triggerUpdateWord`. -/
def triggerClearWord : Data := 0x00002

/-- See `triggerUpdateWord`. -/
def triggerResetWord : Data := 0x00004

/-- See `triggerUpdateWord`. -/
def triggerIdleWord : Data := 0x00000

end Sys2Proof.Machine
end

