-- ==== Sys2Proof/Machine/Scripts.lean ====
section
/-! DEFINITION. The remote register operations and the script of each command (spec 40_frame_codec.md R106, R108, R116; 42_triggers.md R161). -/

namespace Sys2Proof.Machine

/-- One chip-select assertion around the exchange of three given bytes. -/
def sendBytes (f : Bytes3) : List Event := [.sel, .tx f.byte0, .tx f.byte1, .tx f.byte2, .desel]

/-- WRITE_OP(a, v), also written MemWrite(a, 20, v) (40_frame_codec.md R106). -/
def writeOp (a : Addr) (v : Data) : List Event := sendBytes (fenc dirWrite a v.toNat)

/-- The command phase of READ_OP(a): a write-shaped frame with data 0 (40_frame_codec.md R108). -/
def commandPhase (a : Addr) : List Event := sendBytes (fenc dirRead a 0)

/-- The readback phase of READ_OP: three DUMMY exchanges whose answers are captured in order (40_frame_codec.md R108, R109). -/
def readbackPhase : List Event := [.sel, .cap 0, .cap 1, .cap 2, .desel]

/-- READ_OP(a), also written MemRead(a, 20): two chip-select assertions (40_frame_codec.md R108, R110). -/
def readOp (a : Addr) : List Event := commandPhase a ++ readbackPhase

/-- TRIG(t): the flagged write, then the idle write (42_triggers.md R161). -/
def trig (t : Data) : List Event := writeOp (amux 3) t ++ writeOp (amux 3) triggerIdleWord

/-- APPLY_CONFIG (41_configuration.md R136). -/
def applyConfigScript (arg : Arg) : List Event := writeOp (amux 1) (cfga arg)

/-- READ_CONFIG (41_configuration.md R137). -/
def readConfigScript : List Event := readOp (amux 1)

/-- TRIGGER_UPDATE (42_triggers.md R162). -/
def triggerUpdateScript : List Event := trig triggerUpdateWord

/-- TRIGGER_CLEAR (42_triggers.md R163). -/
def triggerClearScript : List Event := trig triggerClearWord

/-- TRIGGER_RESET (42_triggers.md R164). -/
def triggerResetScript : List Event := trig triggerResetWord

/-- SET_OUTPUT (43_register_accessors.md R180). -/
def setOutputScript (arg : Arg) : List Event := writeOp (amux 0) (trunc20 arg.toNat)

/-- GET_OUTPUT (43_register_accessors.md R181). -/
def getOutputScript : List Event := readOp (amux 0)

/-- SET_CLEAR (43_register_accessors.md R182). -/
def setClearScript (arg : Arg) : List Event := writeOp (amux 2) (trunc20 arg.toNat)

/-- GET_CLEAR (43_register_accessors.md R183). -/
def getClearScript : List Event := readOp (amux 2)

/-- `SCRIPT(CMD, ARG)` (40_frame_codec.md R116); a reserved code has none. -/
def script (c : Code) (arg : Arg) : Option (List Event) :=
  match c.toNat with
  | 1 => some (applyConfigScript arg)
  | 2 => some readConfigScript
  | 3 => some triggerUpdateScript
  | 4 => some triggerClearScript
  | 5 => some triggerResetScript
  | 6 => some (setOutputScript arg)
  | 7 => some getOutputScript
  | 8 => some (setClearScript arg)
  | 9 => some getClearScript
  | _ => none

/-- `len(SCRIPT(CMD, ARG))` (40_frame_codec.md R116). -/
def scriptLength (c : Code) (arg : Arg) : Nat := ((script c arg).getD []).length

/-- The byte that an event sends, where it is a transfer (40_frame_codec.md R114). -/
def Event.sentByte : Event → Option Byte
  | .sel => none
  | .desel => none
  | .tx b => some b
  | .cap _ => some dummyByte

/-- The events of one frame, by kind (40_frame_codec.md R106, R108; 30_encoding.md R79); a command is no frame. -/
def frameEvents : Instr → List Event
  | .wDac d => writeOp (amux 0) d
  | .wCtrl d => writeOp (amux 1) d
  | .wClr d => writeOp (amux 2) d
  | .wSwctrl d => writeOp (amux 3) d
  | .rDac => commandPhase (amux 0)
  | .rCtrl => commandPhase (amux 1)
  | .rClr => commandPhase (amux 2)
  | .dummy => readbackPhase
  | .applyConfig _ => []
  | .readConfig _ => []
  | .triggerUpdate _ => []
  | .triggerClear _ => []
  | .triggerReset _ => []
  | .setOutput _ => []
  | .getOutput _ => []
  | .setClear _ => []
  | .getClear _ => []

end Sys2Proof.Machine
end

