-- ==== Sys2Proof/Machine/Ops.lean ====
section
/-! DEFINITION. The named operations over the state: accepting a command, issuing one transport event, taking the one exception, completing,
the reset of the block; and the two shapes of a meaning, a command's and a frame's. -/

namespace Sys2Proof.Machine

/-- What the transport answers to the next `Xfer`: the first of the state's answers, or the free value past their end (92 D19; log 2). -/
def State.nextAnswer (s : State) : XferAnswer :=
  match s.answers with
  | a :: _ => a
  | [] => Config.freeAnswer s.draws

/-- The next `Xfer` answer is used up. -/
def State.takeAnswer (s : State) : State := { s with answers := s.answers.tail, draws := s.draws + 1 }

/-- A request that was issued is appended to the transport trace (00_scope.md R11). -/
def State.record (e : TraceEvent) (s : State) : State := { s with trace := s.trace ++ [e] }

/-- `step <- step + 1` (40_frame_codec.md R114). -/
def State.advance (s : State) : State := { s with step := s.step + 1 }

/-- `x[RXBUF[j]] <- r` (40_frame_codec.md R109, R114). -/
def State.capture (j : Fin 3) (r : Byte) (s : State) : State :=
  match j with
  | 0 => { s with rxbuf := { s.rxbuf with byte0 := r } }
  | 1 => { s with rxbuf := { s.rxbuf with byte1 := r } }
  | 2 => { s with rxbuf := { s.rxbuf with byte2 := r } }

/-- Taking the exception: `raise TransportFailure(k)` (60_exceptions.md R202), with the transport's payload passed on unchanged (R200). The
command is over; `step`, `CMD`, `ARG`, `RESULT` and `RXBUF` stay. There is no return from it (R208): the next accepted command clears the
flags. -/
def raiseTransportFailure (k : BitVec 4) (info : FailInfo) (s : State) : State :=
  { s.setError k with failInfo := info, seqState := .idle, inject := none }

/-- Accept (40_frame_codec.md R113); a frame placed earlier is dropped (log 6). -/
def accept (c : Code) (arg : Arg) (s : State) : State :=
  { s.clearFlags with cmd := c, arg := arg, step := 0, seqState := .busy, inject := none }

/-- Completion of a command that writes only: `RESULT` stays (40_frame_codec.md R115). -/
def completeWrite (s : State) : State := { s.setDone with seqState := .idle }

/-- Completion of a read command: `RESULT` is formed from `RXBUF` (40_frame_codec.md R115). -/
def completeRead (s : State) : State := { s.setDone with seqState := .idle, result := fdec s.rxbuf }

/-- One `Xfer(b)`: the exchange is recorded with its answer; on a byte, `keep` says what becomes of it and the step advances; on FAIL the
exception is taken at this step (40_frame_codec.md R114, 60_exceptions.md R201). -/
def transfer (b : Byte) (keep : Byte → State → State) (s : State) : State :=
  match s.nextAnswer with
  | .byte r => (keep r (s.takeAnswer.record (.tx b (.byte r)))).advance
  | .fail info => raiseTransportFailure s.step info (s.takeAnswer.record (.tx b (.fail info)))

/-- One event of a script (40_frame_codec.md R114). `Select` and `Deselect` always return (60_exceptions.md R201). -/
def issue (e : Event) (s : State) : State :=
  match e with
  | .sel => (s.record .sel).advance
  | .desel => (s.record .desel).advance
  | .tx b => transfer b (fun _ t => t) s
  | .cap j => transfer dummyByte (State.capture j) s

/-- The shape of a command's meaning, one sequencer step at a time. Idle: it is accepted (R113). Busy with this very command: the next event
of its script is issued (R114), or at the script's end it completes (R115). Busy with another one: it is not accepted and nothing changes
(60_exceptions.md R206; log 7). -/
def runCommand (c : Code) (arg : Arg) (sc : List Event) (finish : State → State) (s : State) : Host.Outcome State Fault Refusal :=
  match s.seqState with
  | .idle => .next (accept c arg s)
  | .busy =>
    if s.cmd = c ∧ s.arg = arg then
      match sc[s.step.toNat]? with
      | some e => .next (issue e s)
      | none => if s.step.toNat = sc.length then .next (finish s) else .fault .noRuleApplies
    else .next s

/-- The shape of a frame's meaning, one event at a time: while a command runs and an event of it is due, the frame's event at this place (each
frame is five events, 20_memory.md R54) is issued; otherwise the block issues no request (10_state.md R22) and nothing changes (log 7). -/
def sendFrame (es : List Event) (s : State) : Host.Outcome State Fault Refusal :=
  match s.seqState with
  | .idle => .next s
  | .busy =>
    if s.step.toNat < scriptLength s.cmd s.arg then
      match es[s.step.toNat % 5]? with
      | some e => .next (issue e s)
      | none => .next s
    else .next s

/-- The reset of the block: every register at its reset value; no event is issued, and what the caller, the transport and the reset input hold
stays theirs (70_reset_and_hazards.md R230, R232; log 5). -/
def blockReset (s : State) : State :=
  { State.reset with trace := s.trace, port := s.port, answers := s.answers, draws := s.draws, resetLine := s.resetLine }

/-- The reset input is asserted at this step. -/
def State.resetAsserted (s : State) : Bool := s.resetLine.headD false

/-- The reset input's level of this step has been sampled. -/
def State.sampleReset (s : State) : State := { s with resetLine := s.resetLine.tail }

end Sys2Proof.Machine
end

