-- ==== Sys2Proof/Machine/Accessors.lean ====
section
/-! DEFINITION. The data and clear register accessors (spec 43_register_accessors.md). -/

namespace Sys2Proof.Machine

/-- SET_OUTPUT (43_register_accessors.md R180). -/
def execSetOutput (arg : Arg) (s : State) : Host.Outcome State Fault Refusal :=
  runCommand 0x6 arg (setOutputScript arg) completeWrite s

/-- GET_OUTPUT (43_register_accessors.md R181). -/
def execGetOutput (arg : Arg) (s : State) : Host.Outcome State Fault Refusal :=
  runCommand 0x7 arg getOutputScript completeRead s

/-- SET_CLEAR (43_register_accessors.md R182). -/
def execSetClear (arg : Arg) (s : State) : Host.Outcome State Fault Refusal :=
  runCommand 0x8 arg (setClearScript arg) completeWrite s

/-- GET_CLEAR (43_register_accessors.md R183). -/
def execGetClear (arg : Arg) (s : State) : Host.Outcome State Fault Refusal :=
  runCommand 0x9 arg getClearScript completeRead s

end Sys2Proof.Machine
end

