-- ==== Sys2Proof/Machine/Configuration.lean ====
section
/-! DEFINITION. The configuration commands (spec 41_configuration.md, section 4). -/

namespace Sys2Proof.Machine

/-- APPLY_CONFIG (41_configuration.md R136). -/
def execApplyConfig (arg : Arg) (s : State) : Host.Outcome State Fault Refusal :=
  runCommand 0x1 arg (applyConfigScript arg) completeWrite s

/-- READ_CONFIG (41_configuration.md R137). -/
def execReadConfig (arg : Arg) (s : State) : Host.Outcome State Fault Refusal :=
  runCommand 0x2 arg readConfigScript completeRead s

end Sys2Proof.Machine
end

