-- ==== Sys2Proof/Machine/Frames.lean ====
section
/-! DEFINITION. The eight frame kinds (spec 30_encoding.md R79, 40_frame_codec.md R106 and R108): each sends its five events, one a step. -/

namespace Sys2Proof.Machine

/-- W_DAC: WRITE_OP(1, d). -/
def execWDac (d : Data) (s : State) : Host.Outcome State Fault Refusal := sendFrame (frameEvents (.wDac d)) s

/-- W_CTRL: WRITE_OP(2, d). -/
def execWCtrl (d : Data) (s : State) : Host.Outcome State Fault Refusal := sendFrame (frameEvents (.wCtrl d)) s

/-- W_CLR: WRITE_OP(3, d). -/
def execWClr (d : Data) (s : State) : Host.Outcome State Fault Refusal := sendFrame (frameEvents (.wClr d)) s

/-- W_SWCTRL: WRITE_OP(4, d). -/
def execWSwctrl (d : Data) (s : State) : Host.Outcome State Fault Refusal := sendFrame (frameEvents (.wSwctrl d)) s

/-- R_DAC: the command phase of READ_OP(1). -/
def execRDac (s : State) : Host.Outcome State Fault Refusal := sendFrame (frameEvents .rDac) s

/-- R_CTRL: the command phase of READ_OP(2). -/
def execRCtrl (s : State) : Host.Outcome State Fault Refusal := sendFrame (frameEvents .rCtrl) s

/-- R_CLR: the command phase of READ_OP(3). -/
def execRClr (s : State) : Host.Outcome State Fault Refusal := sendFrame (frameEvents .rClr) s

/-- DUMMY: the readback phase of a READ_OP. -/
def execDummy (s : State) : Host.Outcome State Fault Refusal := sendFrame (frameEvents .dummy) s

end Sys2Proof.Machine
end

