-- ==== Sys2Proof/Machine/Triggers.lean ====
section
/-! DEFINITION. The trigger commands (spec 42_triggers.md). -/

namespace Sys2Proof.Machine

/-- TRIGGER_UPDATE (42_triggers.md R162). -/
def execTriggerUpdate (arg : Arg) (s : State) : Host.Outcome State Fault Refusal :=
  runCommand 0x3 arg triggerUpdateScript completeWrite s

/-- TRIGGER_CLEAR (42_triggers.md R163). -/
def execTriggerClear (arg : Arg) (s : State) : Host.Outcome State Fault Refusal :=
  runCommand 0x4 arg triggerClearScript completeWrite s

/-- TRIGGER_RESET (42_triggers.md R164); the block's own registers are not reset by it (R166). -/
def execTriggerReset (arg : Arg) (s : State) : Host.Outcome State Fault Refusal :=
  runCommand 0x5 arg triggerResetScript completeWrite s

end Sys2Proof.Machine
end

