-- ==== Sys2Proof/Machine/Dispatch.lean ====
section
/-! DEFINITION. One arm per instruction. -/

namespace Sys2Proof.Machine

/-- One sequencer step of an instruction. -/
def exec (i : Instr) (s : State) : Host.Outcome State Fault Refusal :=
  match i with
  | .applyConfig arg => Sys2Proof.Machine.execApplyConfig arg s
  | .readConfig arg => Sys2Proof.Machine.execReadConfig arg s
  | .triggerUpdate arg => Sys2Proof.Machine.execTriggerUpdate arg s
  | .triggerClear arg => Sys2Proof.Machine.execTriggerClear arg s
  | .triggerReset arg => Sys2Proof.Machine.execTriggerReset arg s
  | .setOutput arg => Sys2Proof.Machine.execSetOutput arg s
  | .getOutput arg => Sys2Proof.Machine.execGetOutput arg s
  | .setClear arg => Sys2Proof.Machine.execSetClear arg s
  | .getClear arg => Sys2Proof.Machine.execGetClear arg s
  | .wDac d => Sys2Proof.Machine.execWDac d s
  | .wCtrl d => Sys2Proof.Machine.execWCtrl d s
  | .wClr d => Sys2Proof.Machine.execWClr d s
  | .wSwctrl d => Sys2Proof.Machine.execWSwctrl d s
  | .rDac => Sys2Proof.Machine.execRDac s
  | .rCtrl => Sys2Proof.Machine.execRCtrl s
  | .rClr => Sys2Proof.Machine.execRClr s
  | .dummy => Sys2Proof.Machine.execDummy s

end Sys2Proof.Machine
end

