-- ==== Sys2Proof/Decode.lean ====
section
/-! DEFINITION. Decoding of command words and frames (spec 30_encoding.md), total and rejecting by name; then the encoder, and the rows of
spec/opcode_table.json. -/

namespace Sys2Proof

/-- A command by its code, with its argument (30_encoding.md R81); a reserved code is rejected (R83). -/
def commandOfCode (c : Code) (arg : Arg) : Except DecodeError Instr :=
  match c.toNat with
  | 1 => .ok (.applyConfig arg)
  | 2 => .ok (.readConfig arg)
  | 3 => .ok (.triggerUpdate arg)
  | 4 => .ok (.triggerClear arg)
  | 5 => .ok (.triggerReset arg)
  | 6 => .ok (.setOutput arg)
  | 7 => .ok (.getOutput arg)
  | 8 => .ok (.setClear arg)
  | 9 => .ok (.getClear arg)
  | _ => .error (.reservedCommand c)

/-- `{CMD[3:0], ARG[31:0]}` to a command (30_encoding.md R74). -/
def decodeCommand (w : CommandWord) : Except DecodeError Instr := commandOfCode (w.extractLsb' 32 4) (w.extractLsb' 0 32)

/-- `{RW, A, D}` to a frame kind (30_encoding.md R70, R79, R80); every other value of `{RW, A}` is reserved (R82), and so is a command-phase
or DUMMY frame whose data field is not 0 (log 18). -/
def decodeFrame (w : FrameWord) : Except DecodeError Instr :=
  let d : Data := w.extractLsb' 0 20
  match (w.extractLsb' 20 4).toNat with
  | 1 => .ok (.wDac d)
  | 2 => .ok (.wCtrl d)
  | 3 => .ok (.wClr d)
  | 4 => .ok (.wSwctrl d)
  | 9 => if d = 0 then .ok .rDac else .error (.reservedFrame w)
  | 10 => if d = 0 then .ok .rCtrl else .error (.reservedFrame w)
  | 11 => if d = 0 then .ok .rClr else .error (.reservedFrame w)
  | 0 => if d = 0 then .ok .dummy else .error (.reservedFrame w)
  | _ => .error (.reservedFrame w)

/-- The decoder, on a word of either encoding. -/
def decode : CodeWord → Except DecodeError Instr
  | .cmd w => decodeCommand w
  | .frame w => decodeFrame w

/-- A frame as the three bytes that carry it, `byte0 = F[23:16]` first (30_encoding.md R70, 20_memory.md R50). -/
def frameBytes (w : FrameWord) : Bytes3 :=
  { byte0 := w.extractLsb' 16 8, byte1 := w.extractLsb' 8 8, byte2 := w.extractLsb' 0 8 }

/-- The decoder on the bytes of a frame, in transmit order: exactly three (30_encoding.md R87). -/
def decodeFrameBytes : List Byte → Except DecodeError Instr
  | [b0, b1, b2] => decodeFrame (b0 ++ b1 ++ b2)
  | bs => .error (.frameLength bs.length)

/-- The decoder's reading of an opcode-table word: a FRAME24 row gives at most 24 bits, a CMD36 row 36 (40 in whole bytes). A frame is laid
out as its three bytes, byte0 first. -/
def decodeTableWord (nbits w : Nat) : Option Instr :=
  if nbits ≤ 24 then
    if w < 2 ^ 24 then
      let f := frameBytes (BitVec.ofNat 24 w)
      (decodeFrameBytes [f.byte0, f.byte1, f.byte2]).toOption
    else none
  else if w < 2 ^ 36 then (decode (.cmd (BitVec.ofNat 36 w))).toOption
  else none

/-- The encoder, from the tables of 30_encoding.md R80 and R81. -/
def encode : Instr → CodeWord
  | .applyConfig arg => .cmd (0x1#4 ++ arg)
  | .readConfig arg => .cmd (0x2#4 ++ arg)
  | .triggerUpdate arg => .cmd (0x3#4 ++ arg)
  | .triggerClear arg => .cmd (0x4#4 ++ arg)
  | .triggerReset arg => .cmd (0x5#4 ++ arg)
  | .setOutput arg => .cmd (0x6#4 ++ arg)
  | .getOutput arg => .cmd (0x7#4 ++ arg)
  | .setClear arg => .cmd (0x8#4 ++ arg)
  | .getClear arg => .cmd (0x9#4 ++ arg)
  | .wDac d => .frame (0b0001#4 ++ d)
  | .wCtrl d => .frame (0b0010#4 ++ d)
  | .wClr d => .frame (0b0011#4 ++ d)
  | .wSwctrl d => .frame (0b0100#4 ++ d)
  | .rDac => .frame 0x900000
  | .rCtrl => .frame 0xA00000
  | .rClr => .frame 0xB00000
  | .dummy => .frame 0x000000

/-- A command's code and argument; `none` for a frame kind, which is no command (30_encoding.md R89). -/
def Instr.command? : Instr → Option (Code × Arg)
  | .applyConfig arg => some (0x1, arg)
  | .readConfig arg => some (0x2, arg)
  | .triggerUpdate arg => some (0x3, arg)
  | .triggerClear arg => some (0x4, arg)
  | .triggerReset arg => some (0x5, arg)
  | .setOutput arg => some (0x6, arg)
  | .getOutput arg => some (0x7, arg)
  | .setClear arg => some (0x8, arg)
  | .getClear arg => some (0x9, arg)
  | .wDac _ => none
  | .wCtrl _ => none
  | .wClr _ => none
  | .wSwctrl _ => none
  | .rDac => none
  | .rCtrl => none
  | .rClr => none
  | .dummy => none

/-- The value of a code word as the opcode table numbers its bits. -/
def CodeWord.value : CodeWord → Nat
  | .cmd w => w.toNat
  | .frame w => w.toNat

/-- The width of a code word's format: 36 or 24 bits (30_encoding.md R87). -/
def CodeWord.width : CodeWord → Nat
  | .cmd _ => 36
  | .frame _ => 24

/-- `(width, mask, match)` of an instruction's row, as spec/opcode_table.json gives them. -/
def tableRow : Instr → Nat × Nat × Nat
  | .applyConfig _ => (36, 0xF00000000, 0x100000000)
  | .readConfig _ => (36, 0xF00000000, 0x200000000)
  | .triggerUpdate _ => (36, 0xF00000000, 0x300000000)
  | .triggerClear _ => (36, 0xF00000000, 0x400000000)
  | .triggerReset _ => (36, 0xF00000000, 0x500000000)
  | .setOutput _ => (36, 0xF00000000, 0x600000000)
  | .getOutput _ => (36, 0xF00000000, 0x700000000)
  | .setClear _ => (36, 0xF00000000, 0x800000000)
  | .getClear _ => (36, 0xF00000000, 0x900000000)
  | .wDac _ => (24, 0xF00000, 0x100000)
  | .wCtrl _ => (24, 0xF00000, 0x200000)
  | .wClr _ => (24, 0xF00000, 0x300000)
  | .wSwctrl _ => (24, 0xF00000, 0x400000)
  | .rDac => (24, 0xFFFFFF, 0x900000)
  | .rCtrl => (24, 0xFFFFFF, 0xA00000)
  | .rClr => (24, 0xFFFFFF, 0xB00000)
  | .dummy => (24, 0xFFFFFF, 0x000000)

end Sys2Proof
end

