-- ==== Sys2Proof/Machine/Fetch.lean ====
section
/-! DEFINITION. Where the next instruction comes from: the command port when idle, the latched command when busy (spec 40_frame_codec.md R113,
R114), or a frame placed for the model's own use (log 6); and the placing of a word there. -/

namespace Sys2Proof.Machine

/-- A decoder's rejection as the machine's refusal. A frame from `inject` has 24 bits, so `frameLength` does not come up here. -/
def refusalOf : DecodeError → Refusal
  | .reservedCommand c => .reservedCommand c
  | .reservedFrame w => .reservedFrame w
  | .frameLength _ => .reservedFrame 0

/-- Idle: the command word that the port presents, taken off the port when it is accepted (60_exceptions.md R217). Nothing presented: nothing
to run. -/
def fetchPort (s : State) : Fetched :=
  match s.port with
  | [] => .nothing
  | w :: rest =>
    match decode (.cmd w) with
    | .ok i => .run i { s with port := rest }
    | .error e => .refuse (refusalOf e)

/-- Busy: the running command, which `CMD` and `ARG` hold (40_frame_codec.md R114). -/
def fetchLatched (s : State) : Fetched :=
  match decode (.cmd (s.cmd ++ s.arg)) with
  | .ok i => .run i s
  | .error e => .refuse (refusalOf e)

/-- The frame that the running script sends at this place: the three bytes of its `step / 5`-th chip-select assertion (20_memory.md R50, R54). -/
def State.dueFrame (s : State) : Option FrameWord :=
  let sc := (script s.cmd s.arg).getD []
  let first := s.step.toNat / 5 * 5
  match (sc[first + 1]?).bind Event.sentByte, (sc[first + 2]?).bind Event.sentByte, (sc[first + 3]?).bind Event.sentByte with
  | some b0, some b1, some b2 => some (b0 ++ b1 ++ b2)
  | _, _, _ => none

/-- A control word without a reserved bit and with a legal LINCOMP code (30_encoding.md R84, R85). -/
def controlWordAllowed (d : Data) : Bool :=
  d.extractLsb' 0 1 = 0 ∧ d.extractLsb' 10 10 = 0 ∧ (lcinv (d.extractLsb' 6 4)).isSome = true

/-- A frame placed from outside may be issued only in its own place: it is the frame that the running script sends here, or, where that is a
W_CTRL frame, a W_CTRL frame with an allowed control word (70_reset_and_hazards.md R240; log 6). -/
def State.mayIssue (w : FrameWord) (s : State) : Bool :=
  match s.dueFrame with
  | none => false
  | some v => w = v ∨ (v.extractLsb' 20 4 = 2 ∧ w.extractLsb' 20 4 = 2 ∧ controlWordAllowed (w.extractLsb' 0 20) = true)

/-- Busy with a placed frame: that frame, dropped with its last event (log 6); one that must not be issued here is refused
(70_reset_and_hazards.md R240, 93 I1, I2). -/
def fetchPlaced (w : FrameWord) (s : State) : Fetched :=
  match decode (.frame w) with
  | .ok i =>
    if s.mayIssue w = true then .run i { s with inject := if s.step.toNat % 5 = 4 then none else some w }
    else .refuse (.reservedFrame w)
  | .error e => .refuse (refusalOf e)

/-- The next instruction. -/
def fetch (s : State) : Fetched :=
  match s.seqState with
  | .idle => fetchPort s
  | .busy =>
    match s.inject with
    | some w => fetchPlaced w s
    | none => fetchLatched s

/-- A command word placed on the command port of the idle block. -/
def placeCommand (w : CommandWord) (s : State) : State :=
  { s with seqState := .idle, resetLine := [], port := w :: s.port, inject := none }

/-- The command, its argument and the step at which the running script sends a frame of this kind (30_encoding.md R79). -/
def frameCarrier (w : FrameWord) : Code × Arg × BitVec 4 :=
  let d : Data := w.extractLsb' 0 20
  match (w.extractLsb' 20 4).toNat with
  | 1 => (0x6, d.setWidth 32, 0)
  | 2 => (0x1, (lcinv (d.extractLsb' 6 4)).getD 0, 0)
  | 3 => (0x8, d.setWidth 32, 0)
  | 4 => if d = 1 then (0x3, 0, 0) else if d = 2 then (0x4, 0, 0) else if d = 4 then (0x5, 0, 0) else (0x3, 0, 5)
  | 9 => (0x7, 0, 0)
  | 10 => (0x2, 0, 0)
  | 11 => (0x9, 0, 0)
  | _ => (0x7, 0, 5)

/-- A frame placed as the next one to send: a command that sends such a frame has been accepted, the sequencer stands at that frame, and the
frame's bits are these. -/
def placeFrame (w : FrameWord) (s : State) : State :=
  { accept (frameCarrier w).1 (frameCarrier w).2.1 s with step := (frameCarrier w).2.2, resetLine := [], inject := some w }

end Sys2Proof.Machine
end

