-- ==== Sys2Proof/Machine/Step.lean ====
section
/-! DEFINITION. One step of the machine, and the placing of an opcode-table word where the next step fetches it. -/

namespace Sys2Proof.Machine

/-- One step: the reset input is sampled; asserted, the block is reset (70_reset_and_hazards.md R230); otherwise the instruction that `fetch`
finds runs, and with nothing to run the idle block waits. -/
def step (s : State) : Host.Outcome State Fault Refusal :=
  if s.resetAsserted then .next (blockReset s.sampleReset)
  else
    match fetch s.sampleReset with
    | .nothing => .next s.sampleReset
    | .run i t => exec i t
    | .refuse r => .refused r

/-- The word `w` of an opcode-table row placed where the next step fetches: a frame for a row of at most 24 bits, else a command word. -/
def State.withFetchWord (s : State) (nbits w : Nat) : State :=
  if nbits ≤ 24 then placeFrame (BitVec.ofNat 24 w) s else placeCommand (BitVec.ofNat 36 w) s

end Sys2Proof.Machine
end

