-- ==== Sys2Proof/Machine/Assembly.lean ====
section
/-! DEFINITION. The program text of spec 30_encoding.md R88: one command a line, its argument after it, `;` to the end of the line a comment. -/

namespace Sys2Proof.Machine

/-- The mnemonics of 30_encoding.md R81 and the source's own call names (R88), each with its code and whether it takes an argument. -/
def commandNames : List (String × Code × Bool) :=
  [("APPLY_CONFIG", 0x1, true), ("READ_CONFIG", 0x2, false), ("TRIGGER_UPDATE", 0x3, false), ("TRIGGER_CLEAR", 0x4, false),
   ("TRIGGER_RESET", 0x5, false), ("SET_OUTPUT", 0x6, true), ("GET_OUTPUT", 0x7, false), ("SET_CLEAR", 0x8, true),
   ("GET_CLEAR", 0x9, false), ("setDAC", 0x6, true), ("setDACconfig", 0x1, true), ("getDAC", 0x7, false), ("updateDAC", 0x3, false)]

/-- The value of a digit in base `base` (10 or 16). -/
def digitValue (base : Nat) (ch : Char) : Option Nat :=
  let n := ch.toNat
  let v :=
    if '0'.toNat ≤ n ∧ n ≤ '9'.toNat then n - '0'.toNat
    else if 'a'.toNat ≤ n ∧ n ≤ 'f'.toNat then n - 'a'.toNat + 10
    else if 'A'.toNat ≤ n ∧ n ≤ 'F'.toNat then n - 'A'.toNat + 10
    else base
  if v < base then some v else none

/-- Digits, most significant first, after the value `acc` read so far. -/
def digitsValue (base : Nat) : List Char → Nat → Option Nat
  | [], acc => some acc
  | ch :: rest, acc =>
    match digitValue base ch with
    | some v => digitsValue base rest (acc * base + v)
    | none => none

/-- A decimal or `0x` hexadecimal unsigned literal that fits the 32-bit argument (log 15). -/
def literalValue (cs : List Char) : Option Arg :=
  let v := match cs with
    | [] => none
    | '0' :: 'x' :: [] => none
    | '0' :: 'x' :: ds => digitsValue 16 ds 0
    | ds => digitsValue 10 ds 0
  match v with
  | some n => if n < 2 ^ 32 then some (BitVec.ofNat 32 n) else none
  | none => none

/-- The fields of a line between blanks, in order; `cur` holds the field being read, reversed. -/
def splitFields : List Char → List Char → List (List Char)
  | [], cur => if cur.isEmpty then [] else [cur.reverse]
  | ch :: rest, cur =>
    if ch = ' ' ∨ ch = '\t' ∨ ch = '\r' then
      if cur.isEmpty then splitFields rest [] else cur.reverse :: splitFields rest []
    else splitFields rest (ch :: cur)

/-- The lines of a text; `cur` holds the line being read, reversed. -/
def splitLines : List Char → List Char → List (List Char)
  | [], cur => [cur.reverse]
  | ch :: rest, cur => if ch = '\n' then cur.reverse :: splitLines rest [] else splitLines rest (ch :: cur)

/-- One line to the command words it stands for: none for a blank line, one for a command, and `Option.none` for a line that is neither. -/
def assembleLine (line : List Char) : Option (List CommandWord) :=
  match splitFields (line.takeWhile (· ≠ ';')) [] with
  | [] => some []
  | [name] =>
    match commandNames.find? (fun r => r.1.toList = name) with
    | some (_, c, false) => some [c ++ (0 : Arg)]
    | _ => none
  | [name, value] =>
    match commandNames.find? (fun r => r.1.toList = name), literalValue value with
    | some (_, c, true), some arg => some [c ++ arg]
    | _, _ => none
  | _ => none

/-- The lines of a program, in order. -/
def assembleLines : List (List Char) → Option (List CommandWord)
  | [] => some []
  | l :: rest =>
    match assembleLine l, assembleLines rest with
    | some ws, some ws' => some (ws ++ ws')
    | _, _ => none

/-- A program text to its command words, "run in order" (30_encoding.md R88). -/
def assemble (text : String) : Option (List CommandWord) := assembleLines (splitLines text.toList [])

/-- The caller holds these command words on the port, after those it holds already (log 4). -/
def State.load (ws : List CommandWord) (s : State) : State := { s with port := s.port ++ ws }

end Sys2Proof.Machine
end

