-- ==== Sys2Proof/Machine/Ports.lean ====
section
/-! DEFINITION. The block's outputs: the result and status port (spec 60_exceptions.md R216), the transport port (R215). -/

namespace Sys2Proof

/-- What the result and status port presents (60_exceptions.md R216). -/
structure StatusPort where
  ready : Bool
  done : Bool
  err : Bool
  errStep : BitVec 4
  failInfo : FailInfo
  result : Data
  /-- CFGD(RESULT), beside RESULT (41_configuration.md R138). -/
  fields : ConfigFields
  deriving DecidableEq, Repr

end Sys2Proof

namespace Sys2Proof.Machine

/-- `ready = (STATE = IDLE)` (60_exceptions.md R216, R217). -/
def State.ready (s : State) : Bool := s.seqState = .idle

/-- The result and status port (60_exceptions.md R216). -/
def State.statusPort (s : State) : StatusPort where
  ready := s.ready
  done := s.done
  err := s.err
  errStep := s.errStep
  failInfo := s.failInfo
  result := s.result
  fields := cfgd s.result

/-- The event that is due: `S[step]` of the running command (40_frame_codec.md R114), or the placed frame's (log 6). -/
def State.dueEvent (s : State) : Option Event :=
  match s.seqState with
  | .idle => none
  | .busy =>
    match s.inject with
    | some w =>
      if s.mayIssue w = true then
        match decodeFrame w with
        | .ok f => (frameEvents f)[s.step.toNat % 5]?
        | .error _ => none
      else none
    | none => ((script s.cmd s.arg).getD [])[s.step.toNat]?

/-- The request an event makes of the transport (00_scope.md R11, 60_exceptions.md R215); every SEL and DESEL carries DEVICE_ID (92 D16). -/
def Event.request : Event → TransportRequest
  | .sel => .select Config.deviceId
  | .desel => .deselect Config.deviceId
  | .tx b => .xfer b
  | .cap _ => .xfer dummyByte

/-- The request that an entry of the trace records. -/
def TraceEvent.request : TraceEvent → TransportRequest
  | .sel => .select Config.deviceId
  | .desel => .deselect Config.deviceId
  | .tx b _ => .xfer b

/-- The request on the transport port in this state, where there is one. -/
def State.transportRequest (s : State) : Option TransportRequest :=
  if s.resetAsserted then none else s.dueEvent.map Event.request

end Sys2Proof.Machine
end

