-- ==== Sys2Proof/WellFormed.lean ====
section
/-! DEFINITION. Which instructions the block produces or accepts: a frame's data field holds only what some command sends in it. -/

namespace Sys2Proof

/-- The five words CFGA can produce (41_configuration.md R131): the only data of a W_CTRL frame (30_encoding.md R79, R84). -/
def configWords : List Data := [0x00012, 0x00252, 0x00292, 0x002D2, 0x00312]

/-- The four values written to the software-control register (10_state.md R31, 42_triggers.md R160). -/
def triggerWords : List Data := [0x00001, 0x00002, 0x00004, 0x00000]

/-- Every command is well-formed, whatever its argument (60_exceptions.md R204); a write frame is where its data field is one that a
command sends (30_encoding.md R79, 70_reset_and_hazards.md R240). -/
def Instr.wellFormed : Instr → Bool
  | .applyConfig _ => true
  | .readConfig _ => true
  | .triggerUpdate _ => true
  | .triggerClear _ => true
  | .triggerReset _ => true
  | .setOutput _ => true
  | .getOutput _ => true
  | .setClear _ => true
  | .getClear _ => true
  | .wDac _ => true
  | .wCtrl d => configWords.contains d
  | .wClr _ => true
  | .wSwctrl d => triggerWords.contains d
  | .rDac => true
  | .rCtrl => true
  | .rClr => true
  | .dummy => true

end Sys2Proof
end

