-- ==== Sys2Proof/Safety.lean ====
section
/-! DEFINITION. What counts as a safe state and a legal transport trace, and the whole run of a command in one go: the terms of the statements. -/

namespace Sys2Proof.Machine

/-- `exec i`, `n` times in a row, stopping at the first fault or refusal: the steps of one instruction. -/
def execTimes : Nat → Instr → State → Host.Outcome State Fault Refusal
  | 0, _, s => .next s
  | n + 1, i, s =>
    match exec i s with
    | .next t => execTimes n i t
    | .fault f => .fault f
    | .refused r => .refused r

/-- `n` steps of the machine, stopping at the first fault or refusal: the host's `core.run` in the machine's own types
(Laws/Step.lean, `core_run_eq_stepTimes`). -/
def stepTimes : Nat → State → Host.Outcome State Fault Refusal
  | 0, s => .next s
  | n + 1, s =>
    match step s with
    | .next t => stepTimes n t
    | .fault f => .fault f
    | .refused r => .refused r

/-- The answer the transport gives to the `k`-th transfer from this state on. -/
def State.answerAt (s : State) (k : Nat) : XferAnswer := (s.answers[k]?).getD (Config.freeAnswer (s.draws + k))

/-- The read commands (40_frame_codec.md R115). -/
def isReadCode (c : Code) : Bool := c = 0x2 ∨ c = 0x7 ∨ c = 0x9

/-- The completion of a command, by its code (40_frame_codec.md R115). -/
def completeFor (c : Code) : State → State := if isReadCode c then completeRead else completeWrite

/-- The steps at which a transfer stands in a script, and so at which an abort can happen (41_configuration.md R136, R137: "at steps 1 to 3 or
6 to 8"). -/
def transferSteps : List (BitVec 4) := [1, 2, 3, 6, 7, 8]

/-- The frames a command sends, in order (30_encoding.md R79); a frame kind is no command. -/
def commandFrames : Instr → List Instr
  | .applyConfig arg => [.wCtrl (cfga arg)]
  | .readConfig _ => [.rCtrl, .dummy]
  | .triggerUpdate _ => [.wSwctrl 0x00001, .wSwctrl 0x00000]
  | .triggerClear _ => [.wSwctrl 0x00002, .wSwctrl 0x00000]
  | .triggerReset _ => [.wSwctrl 0x00004, .wSwctrl 0x00000]
  | .setOutput arg => [.wDac (trunc20 arg.toNat)]
  | .getOutput _ => [.rDac, .dummy]
  | .setClear arg => [.wClr (trunc20 arg.toNat)]
  | .getClear _ => [.rClr, .dummy]
  | .wDac _ => []
  | .wCtrl _ => []
  | .wClr _ => []
  | .wSwctrl _ => []
  | .rDac => []
  | .rCtrl => []
  | .rClr => []
  | .dummy => []

/-- What every run keeps of the registers: `step` in range (10_state.md R24), the flags as R25 has them, a running command that is one of the
nine and stands inside its script, an ended command at its script's end or at the step that failed (60_exceptions.md R202), and a placed frame
(log 6) only where an event of it is due. -/
structure State.Safe (s : State) : Prop where
  step_le : s.step.toNat ≤ 10
  no_err : s.err = false → s.errStep = 0
  aborted : s.err = true → s.done = true ∧ s.errStep = s.step ∧ s.step ∈ transferSteps
  ended : s.done = true → s.seqState = .idle ∧ (script s.cmd s.arg).isSome = true
  completed : s.done = true → s.err = false → s.step.toNat = scriptLength s.cmd s.arg
  running : s.seqState = .busy → (script s.cmd s.arg).isSome = true ∧ s.step.toNat ≤ scriptLength s.cmd s.arg
  placed : s.inject.isSome = true → s.seqState = .busy ∧ s.step.toNat < scriptLength s.cmd s.arg

/-- A placed frame that may be issued here, in the spec's words: the running script's own frame at this place, or, in the place of a W_CTRL frame,
one whose bits 0 and 19:10 are 0 and whose LINCOMP is one of the five legal codes (30_encoding.md R79, R84, R85; log 6). -/
def State.PlacedIsDue (w : FrameWord) (s : State) : Prop :=
  s.dueFrame = some w ∨
  ∃ d e : Data, w = 0x2#4 ++ d ∧ s.dueFrame = some (0x2#4 ++ e) ∧
    d.extractLsb' 0 1 = 0 ∧ d.extractLsb' 10 10 = 0 ∧ d.extractLsb' 6 4 ∈ [0b0000#4, 0b1001#4, 0b1010#4, 0b1011#4, 0b1100#4]

/-- A piece of the trace that one command left: its requests are the first `n` of the command's script, all of them if it completed, fewer if
it aborted or the block was reset (20_memory.md R54, R61; 60_exceptions.md R203). -/
def CommandTrace (es : List TraceEvent) : Prop :=
  ∃ c arg sc n, script c arg = some sc ∧ es.map TraceEvent.request = (sc.take n).map Event.request

/-- The trace is one command's piece after the other, and the running command's own piece is exactly the events before `step`; no frame is
placed from outside. -/
def State.TraceLegal (s : State) : Prop :=
  s.inject = none ∧
  ∃ past now, s.trace = List.flatten past ++ now ∧ (∀ es ∈ past, CommandTrace es) ∧
    match s.seqState with
    | .idle => now = []
    | .busy => ∃ sc, script s.cmd s.arg = some sc ∧ s.step.toNat ≤ sc.length ∧ now.map TraceEvent.request = (sc.take s.step.toNat).map Event.request

/-- The rest of a running command in one go: its events in order, until one fails, and then its completion. -/
def runScript (finish : State → State) : List Event → State → State
  | [], s => finish s
  | e :: es, s =>
    match (issue e s).seqState with
    | .idle => issue e s
    | .busy => runScript finish es (issue e s)

/-- A whole command in one go, from accepting it to its end. -/
def commandOutcome (c : Code) (arg : Arg) (s : State) : State :=
  runScript (completeFor c) ((script c arg).getD []) (accept c arg s)

end Sys2Proof.Machine
end

