-- ==== Sys2Proof/Certificates/Slice0/Obligations.lean ====
section
/-! DEFINITION. The statements for the provers. Each docstring names the rules of spec/ it says, and the log entry where it rests on a choice of
the model. -/

open Sys2Proof Sys2Proof.Machine

/-! ### The combinational units -/

/-- 00_scope.md R9: the low 20 bits of any unsigned value, whatever its width. -/
def Obligations.Trunc20KeepsTheLowTwentyBits : Prop :=
  ∀ v : Nat, (trunc20 v).toNat = v &&& 0xFFFFF ∧ (trunc20 v).toNat = v % 2 ^ 20

/-- 40_frame_codec.md R100: the four addresses, and no reserved one for any input (that the clear register has address 3 is the spec's decision
D4, log 10). -/
def Obligations.AmuxGivesOnlyUsedAddresses : Prop :=
  amux 0 = 0b001 ∧ amux 1 = 0b010 ∧ amux 2 = 0b011 ∧ amux 3 = 0b100 ∧
  (amux 3).setWidth 8 <<< 4 = (0x40 : Byte) ∧
  ∀ r : BitVec 2, amux r ≠ 0 ∧ amux r ≠ 5 ∧ amux r ≠ 6 ∧ amux r ≠ 7

/-- 40_frame_codec.md R101: the three bytes, bit by bit, for a value of any width; truncation, not rejection; the read frame; the example. -/
def Obligations.FencPacksDirectionAddressAndData : Prop :=
  (∀ (rw : BitVec 1) (a : Addr) (v : Nat),
    let f := fenc rw a v
    f.byte0.extractLsb' 7 1 = rw ∧ f.byte0.extractLsb' 4 3 = a ∧
    (f.byte0.extractLsb' 0 4 ++ f.byte1 ++ f.byte2 : Data) = trunc20 v ∧
    f = fenc rw a (v % 2 ^ 20)) ∧
  (∀ a : Addr, fenc 1 a 0 = ⟨0x80 ||| (a.setWidth 8 <<< 4), 0x00, 0x00⟩) ∧
  fenc 0 1 0x12345 = ⟨0x11, 0x23, 0x45⟩ ∧ fenc 0 1 0x100000 = fenc 0 1 0

/-- 40_frame_codec.md R102 (the spec marks it as derived from R101 and R70): the three parts of byte0 are in disjoint bits, so no address and
no data sets the direction bit or disturbs the other. -/
def Obligations.FencPartsAreDisjoint : Prop :=
  ∀ (rw : BitVec 1) (a : Addr) (v : Nat),
    (rw.setWidth 8 <<< 7 : Byte) &&& (a.setWidth 8 <<< 4) = 0 ∧
    (rw.setWidth 8 <<< 7 : Byte) &&& ((trunc20 v).extractLsb' 16 4).setWidth 8 = 0 ∧
    (a.setWidth 8 <<< 4 : Byte) &&& ((trunc20 v).extractLsb' 16 4).setWidth 8 = 0 ∧
    (fenc rw a v).byte0 = rw ++ a ++ (trunc20 v).extractLsb' 16 4

/-- 40_frame_codec.md R103: the three bytes assembled and masked, equivalently `{r0[3:0], r1, r2}`; the corner cases and the example. -/
def Obligations.FdecAssemblesAndDiscardsTheTopNibble : Prop :=
  (∀ r : Bytes3,
    (fdec r).toNat = (r.byte0.toNat * 2 ^ 16 + r.byte1.toNat * 2 ^ 8 + r.byte2.toNat) &&& 0x000FFFFF ∧
    fdec r = r.byte0.extractLsb' 0 4 ++ r.byte1 ++ r.byte2) ∧
  fdec ⟨0xF0, 0x00, 0x00⟩ = 0x00000 ∧ fdec ⟨0xFF, 0xFF, 0xFF⟩ = 0xFFFFF ∧ fdec ⟨0x00, 0x80, 0x00⟩ = 0x08000

/-- 40_frame_codec.md R104, the truncation law (the spec marks it as derived): for every address and every unsigned value. -/
def Obligations.DecodingAnEncodedWriteTruncates : Prop :=
  ∀ (a : Addr) (v : Nat), (fdec (fenc 0 a v)).toNat = v &&& 0xFFFFF

/-- 40_frame_codec.md R105, the idempotence law (the spec marks it as derived). -/
def Obligations.EncodeDecodeEncodeIsEncode : Prop :=
  ∀ (rw : BitVec 1) (a : Addr) (v : Data), fenc rw a (fdec (fenc rw a v.toNat)).toNat = fenc rw a v.toNat

/-- 41_configuration.md R130: the code of each selector, its place in the word, and the default for every other 32-bit value. -/
def Obligations.RangeSelectorGivesCompensationCode : Prop :=
  lc 1 = 0b1001 ∧ lc 2 = 0b1010 ∧ lc 3 = 0b1011 ∧ lc 4 = 0b1100 ∧
  (∀ sel : Arg, sel ≠ 1 → sel ≠ 2 → sel ≠ 3 → sel ≠ 4 → lc sel = 0b0000) ∧
  ((lc 0).setWidth 20 <<< 6 : Data) = 0x00000 ∧ ((lc 1).setWidth 20 <<< 6 : Data) = 0x00240 ∧
  ((lc 2).setWidth 20 <<< 6 : Data) = 0x00280 ∧ ((lc 3).setWidth 20 <<< 6 : Data) = 0x002C0 ∧
  ((lc 4).setWidth 20 <<< 6 : Data) = 0x00300

/-- 41_configuration.md R131: the word, its five possible values, the same base bits in all of them, the example. -/
def Obligations.ConfigurationWordOfEachSelector : Prop :=
  (∀ sel : Arg, cfga sel = 0x00012 ||| ((lc sel).setWidth 20 <<< 6)) ∧
  (∀ sel : Arg, cfga sel =
    if sel = 1 then 0x00252 else if sel = 2 then 0x00292 else if sel = 3 then 0x002D2 else if sel = 4 then 0x00312 else 0x00012) ∧
  (∀ sel : Arg, cfga sel &&& 0xFFC3F = 0x00012) ∧
  cfga 2 = 0x00292

/-- 41_configuration.md R133 (the spec marks it as derived from R130 and R131): bits 0 and 19:10 clear, LINCOMP legal, for every selector. -/
def Obligations.ConfigurationWordIsNeverUndefined : Prop :=
  ∀ sel : Arg,
    (cfga sel).extractLsb' 0 1 = 0 ∧ (cfga sel).extractLsb' 10 10 = 0 ∧
    (cfga sel).extractLsb' 6 4 ∈ [0b0000#4, 0b1001#4, 0b1010#4, 0b1011#4, 0b1100#4] ∧
    (cfgd (cfga sel)).sel.isSome = true ∧ cfga sel ∈ configWords

/-- 41_configuration.md R134: every bit of the word is in the field the rule gives it and the selector is LCINV of LINCOMP; total; the example.
The places of the single-bit fields are the spec's decision D6 (log 10). -/
def Obligations.DisassemblerSplitsTheWholeWord : Prop :=
  (∀ w : Data,
    let r := cfgd w
    (r.rsvdHi ++ r.lincomp ++ r.swdis ++ r.coding ++ r.tri ++ r.gclamp ++ r.amp ++ r.rsvdLo : Data) = w ∧
    r.sel = lcinv r.lincomp) ∧
  cfgd 0x00292 = { rsvdLo := 0, amp := 1, gclamp := 0, tri := 0, coding := 1, swdis := 0, lincomp := 0b1010, rsvdHi := 0, sel := some 2 }

/-- 41_configuration.md R135: LCINV on the five legal codes, none on every other; it inverts LC, with 0 for the selectors outside 1 to 4. -/
def Obligations.SelectorIsRecoveredFromLegalCodes : Prop :=
  (∀ c : BitVec 4, lcinv c =
    if c = 0b0000 then some 0 else if c = 0b1001 then some 1 else if c = 0b1010 then some 2
    else if c = 0b1011 then some 3 else if c = 0b1100 then some 4 else none) ∧
  (∀ (c : BitVec 4) (sel : Arg), lcinv c = some sel → lc sel = c) ∧
  (∀ sel : Arg, lcinv (lc sel) = some (if sel = 1 ∨ sel = 2 ∨ sel = 3 ∨ sel = 4 then sel else 0))

/-! ### Encodings -/

/-- 30_encoding.md R74, R80, R81: decoding the word of any instruction gives it back, with every operand at every value. -/
def Obligations.DecodeOfEncodeIsTheInstruction : Prop :=
  ∀ i : Instr, decode (encode i) = .ok i

/-- 30_encoding.md R80, R81: each word has one meaning: whatever word decodes to an instruction is the encoder's word of it. -/
def Obligations.EncodeOfDecodeIsTheWord : Prop :=
  ∀ (w : CodeWord) (i : Instr), decode w = .ok i → encode i = w

/-- 30_encoding.md R80: the bits of the eight frame kinds. -/
def Obligations.FrameKindsHaveTheirBits : Prop :=
  (∀ d : Data, encode (.wDac d) = .frame (0b0#1 ++ 0b001#3 ++ d) ∧ encode (.wCtrl d) = .frame (0b0#1 ++ 0b010#3 ++ d) ∧
    encode (.wClr d) = .frame (0b0#1 ++ 0b011#3 ++ d) ∧ encode (.wSwctrl d) = .frame (0b0#1 ++ 0b100#3 ++ d)) ∧
  (∀ w, encode .rDac = .frame w → frameBytes w = ⟨0x90, 0x00, 0x00⟩) ∧
  (∀ w, encode .rCtrl = .frame w → frameBytes w = ⟨0xA0, 0x00, 0x00⟩) ∧
  (∀ w, encode .rClr = .frame w → frameBytes w = ⟨0xB0, 0x00, 0x00⟩) ∧
  (∀ w, encode .dummy = .frame w → frameBytes w = ⟨0x00, 0x00, 0x00⟩)

/-- 30_encoding.md R81, R83 (the codes are the spec's decision D2): which command words decode, and to which code and argument. -/
def Obligations.CommandWordsDecodeByTheirCode : Prop :=
  ∀ (c : Code) (arg : Arg),
    (∀ i : Instr, decode (.cmd (c ++ arg)) = .ok i ↔ i.command? = some (c, arg)) ∧
    (decode (.cmd (c ++ arg)) = .error (.reservedCommand c) ↔ c = 0 ∨ 10 ≤ c.toNat)

/-- 30_encoding.md R82: a frame whose top nibble is none of the eight is rejected; so is a read of address 4, and a write to address 0 that is not
the all-zero DUMMY; so is, by log 18, a read command phase with nonzero data; and a frame that decodes has one of the eight top nibbles. -/
def Obligations.ReservedFramesAreRejected : Prop :=
  (∀ w : FrameWord, w.extractLsb' 20 4 ∉ [0#4, 1#4, 2#4, 3#4, 4#4, 9#4, 10#4, 11#4] → decode (.frame w) = .error (.reservedFrame w)) ∧
  (∀ d : Data, decode (.frame (0xC#4 ++ d)) = .error (.reservedFrame (0xC#4 ++ d))) ∧
  (∀ d : Data, d ≠ 0 →
    decode (.frame (0x0#4 ++ d)) = .error (.reservedFrame (0x0#4 ++ d)) ∧ decode (.frame (0x9#4 ++ d)) = .error (.reservedFrame (0x9#4 ++ d)) ∧
    decode (.frame (0xA#4 ++ d)) = .error (.reservedFrame (0xA#4 ++ d)) ∧ decode (.frame (0xB#4 ++ d)) = .error (.reservedFrame (0xB#4 ++ d))) ∧
  (∀ (w : FrameWord) (i : Instr), decode (.frame w) = .ok i →
    w.extractLsb' 20 4 ∈ [0#4, 1#4, 2#4, 3#4, 4#4, 9#4, 10#4, 11#4] ∧ i.command? = none)

/-- Words written out from the spec's encodings decode to what they stand for (30_encoding.md R80, R81; the words of 95_test_vectors.md 2.7). -/
def Obligations.SampleWordsDecode : Prop :=
  decode (.cmd 0x100000002) = .ok (.applyConfig 2) ∧ decode (.cmd 0x4DEADBEEF) = .ok (.triggerClear 0xDEADBEEF) ∧
  decode (.cmd 0x600080000) = .ok (.setOutput 0x80000) ∧ decode (.cmd 0x900000000) = .ok (.getClear 0) ∧
  decode (.frame 0x112345) = .ok (.wDac 0x12345) ∧ decode (.frame 0x200292) = .ok (.wCtrl 0x00292) ∧
  decode (.frame 0x900000) = .ok .rDac ∧ decode (.frame 0x000000) = .ok .dummy

/-- A frame kind's bytes are what FENC makes of its direction, address and data (30_encoding.md R70, R79; 40_frame_codec.md R101): the encoder of
the opcode table and the block's frame encoder agree, for every data value. -/
def Obligations.FrameEncoderMatchesTheFrameKinds : Prop :=
  ∀ (f : Instr) (w : FrameWord), encode f = .frame w →
    (frameEvents f).map Event.request =
      [.select Config.deviceId, .xfer (frameBytes w).byte0, .xfer (frameBytes w).byte1, .xfer (frameBytes w).byte2, .deselect Config.deviceId]

/-! ### Scripts -/

/-- 40_frame_codec.md R116: the script of each command and its length, for every argument; a reserved code has none. -/
def Obligations.ScriptOfEachCommand : Prop :=
  (∀ (c : Code) (arg : Arg), (c = 0 ∨ 10 ≤ c.toNat) → script c arg = none) ∧
  ∀ arg : Arg,
    script 0x1 arg = some (writeOp (amux 1) (cfga arg)) ∧ scriptLength 0x1 arg = 5 ∧
    script 0x2 arg = some (readOp (amux 1)) ∧ scriptLength 0x2 arg = 10 ∧
    script 0x3 arg = some (writeOp (amux 3) 0x00001 ++ writeOp (amux 3) 0x00000) ∧ scriptLength 0x3 arg = 10 ∧
    script 0x4 arg = some (writeOp (amux 3) 0x00002 ++ writeOp (amux 3) 0x00000) ∧ scriptLength 0x4 arg = 10 ∧
    script 0x5 arg = some (writeOp (amux 3) 0x00004 ++ writeOp (amux 3) 0x00000) ∧ scriptLength 0x5 arg = 10 ∧
    script 0x6 arg = some (writeOp (amux 0) (trunc20 arg.toNat)) ∧ scriptLength 0x6 arg = 5 ∧
    script 0x7 arg = some (readOp (amux 0)) ∧ scriptLength 0x7 arg = 10 ∧
    script 0x8 arg = some (writeOp (amux 2) (trunc20 arg.toNat)) ∧ scriptLength 0x8 arg = 5 ∧
    script 0x9 arg = some (readOp (amux 2)) ∧ scriptLength 0x9 arg = 10

/-- 41_configuration.md R136, R137; 42_triggers.md R161 to R164; 43_register_accessors.md R180 to R183: the events of every command, byte by
byte, for every argument. -/
def Obligations.EventsOfEachCommandByteByByte : Prop :=
  ∀ arg : Arg,
    script 0x1 arg = some [.sel, .tx 0x20, .tx ((cfga arg).extractLsb' 8 8), .tx ((cfga arg).extractLsb' 0 8), .desel] ∧
    script 0x2 arg = some [.sel, .tx 0xA0, .tx 0x00, .tx 0x00, .desel, .sel, .cap 0, .cap 1, .cap 2, .desel] ∧
    script 0x3 arg = some [.sel, .tx 0x40, .tx 0x00, .tx 0x01, .desel, .sel, .tx 0x40, .tx 0x00, .tx 0x00, .desel] ∧
    script 0x4 arg = some [.sel, .tx 0x40, .tx 0x00, .tx 0x02, .desel, .sel, .tx 0x40, .tx 0x00, .tx 0x00, .desel] ∧
    script 0x5 arg = some [.sel, .tx 0x40, .tx 0x00, .tx 0x04, .desel, .sel, .tx 0x40, .tx 0x00, .tx 0x00, .desel] ∧
    script 0x6 arg = some [.sel, .tx (0x1#4 ++ arg.extractLsb' 16 4), .tx (arg.extractLsb' 8 8), .tx (arg.extractLsb' 0 8), .desel] ∧
    script 0x7 arg = some [.sel, .tx 0x90, .tx 0x00, .tx 0x00, .desel, .sel, .cap 0, .cap 1, .cap 2, .desel] ∧
    script 0x8 arg = some [.sel, .tx (0x3#4 ++ arg.extractLsb' 16 4), .tx (arg.extractLsb' 8 8), .tx (arg.extractLsb' 0 8), .desel] ∧
    script 0x9 arg = some [.sel, .tx 0xB0, .tx 0x00, .tx 0x00, .desel, .sel, .cap 0, .cap 1, .cap 2, .desel]

/-- 30_encoding.md R79: every command's script is its frames, one after the other, with the data field the table gives each; so no other frame
kind is ever sent. -/
def Obligations.EveryScriptIsItsCommandsFrames : Prop :=
  ∀ (i : Instr) (c : Code) (arg : Arg), i.command? = some (c, arg) →
    script c arg = some ((commandFrames i).flatMap frameEvents) ∧
    ∀ f ∈ commandFrames i, f.wellFormed = true ∧ f.command? = none

/-- 20_memory.md R54, the scripts' part: in every script each `SEL` is followed by exactly three transfers and a `DESEL`, and nothing stands
outside such a group. -/
def Obligations.EveryFrameIsThreeTransfersInsideOneSelect : Prop :=
  ∀ (c : Code) (arg : Arg) (sc : List Event), script c arg = some sc →
    (sc.length = 5 ∨ sc.length = 10) ∧
    ∀ k < sc.length,
      (k % 5 = 0 → sc[k]? = some .sel) ∧ (k % 5 = 4 → sc[k]? = some .desel) ∧
      (1 ≤ k % 5 ∧ k % 5 ≤ 3 → ∃ b, sc[k]?.map Event.request = some (.xfer b))

/-- 40_frame_codec.md R110: the two phases of every read are two chip-select assertions, the second right after the first. -/
def Obligations.ReadIsTwoChipSelectAssertions : Prop :=
  ∀ a : Addr, (readOp a)[4]? = some .desel ∧ (readOp a)[5]? = some .sel ∧ (readOp a).count .sel = 2 ∧ (readOp a).length = 10

/-- 42_triggers.md R160: the constants; in every script, a frame whose first byte has top nibble 4 belongs to a trigger command and carries one of
the four values, so at most one trigger bit; and so do the frames that R79 gives each command. -/
def Obligations.SoftwareControlGetsOnlyTriggerValues : Prop :=
  triggerUpdateWord = 0x00001 ∧ triggerClearWord = 0x00002 ∧ triggerResetWord = 0x00004 ∧ triggerIdleWord = 0x00000 ∧
  (∀ (c : Code) (arg : Arg) (sc : List Event) (k : Nat) (b : Byte),
    script c arg = some sc → sc[k]? = some .sel → sc[k + 1]? = some (.tx b) → b.extractLsb' 4 4 = 0x4#4 →
    (c = 0x3 ∨ c = 0x4 ∨ c = 0x5) ∧ b = 0x40 ∧ sc[k + 2]? = some (.tx 0x00) ∧
    ∃ t : Byte, sc[k + 3]? = some (.tx t) ∧ t ∈ [0x01#8, 0x02#8, 0x04#8, 0x00#8] ∧ t &&& (t - 1) = 0) ∧
  ∀ (i : Instr) (d : Data), .wSwctrl d ∈ commandFrames i →
    d ∈ [0x00001, 0x00002, 0x00004, 0x00000] ∧ d &&& (d - 1) = 0 ∧ ∃ arg, i = .triggerUpdate arg ∨ i = .triggerClear arg ∨ i = .triggerReset arg

/-! ### The commands, one sequencer step at a time -/

/-- 40_frame_codec.md R113, the meaning's part: idle, every one of the nine commands is accepted, and this is all that changes. The cleared field
inject is the model's own (log 6). -/
def Obligations.EveryCommandIsAcceptedWhenIdle : Prop :=
  ∀ (arg : Arg) (s : State), s.seqState = .idle →
    let accepted (c : Code) : Host.Outcome State Fault Refusal :=
      .next { s with cmd := c, arg := arg, step := 0, err := false, errStep := 0, done := false, seqState := .busy, inject := none }
    exec (.applyConfig arg) s = accepted 0x1 ∧ exec (.readConfig arg) s = accepted 0x2 ∧
    exec (.triggerUpdate arg) s = accepted 0x3 ∧ exec (.triggerClear arg) s = accepted 0x4 ∧
    exec (.triggerReset arg) s = accepted 0x5 ∧ exec (.setOutput arg) s = accepted 0x6 ∧
    exec (.getOutput arg) s = accepted 0x7 ∧ exec (.setClear arg) s = accepted 0x8 ∧ exec (.getClear arg) s = accepted 0x9

/-- 40_frame_codec.md R113: accepted when idle with one of the nine codes, in one step that issues no event and takes the word off the port; not
accepted while busy, whatever is presented; not accepted with a reserved code. The words held on the port as a list, from which an accepted one
is taken, are log 4; the cleared field inject is log 6; that a reserved code has no next state is log 8 (30_encoding.md R83, the spec's decision D12). -/
def Obligations.PortCommandIsAcceptedOnlyWhenIdleAndKnown : Prop :=
  (∀ (s : State) (c : Code) (arg : Arg) (rest : List CommandWord),
    s.resetAsserted = false → s.seqState = .idle → s.port = (c ++ arg) :: rest → (1 ≤ c.toNat ∧ c.toNat ≤ 9) →
    Machine.step s = .next { s with
      port := rest, resetLine := s.resetLine.tail, cmd := c, arg := arg, step := 0, err := false, errStep := 0, done := false, seqState := .busy, inject := none }) ∧
  (∀ s t : State, s.resetAsserted = false → s.seqState = .busy → Machine.step s = .next t → t.port = s.port ∧ t.cmd = s.cmd ∧ t.arg = s.arg) ∧
  (∀ (s : State) (c : Code) (arg : Arg) (rest : List CommandWord),
    s.resetAsserted = false → s.seqState = .idle → s.port = (c ++ arg) :: rest → (c = 0 ∨ 10 ≤ c.toNat) → ∀ t, Machine.step s ≠ .next t)

/-- 30_encoding.md R83, 60_exceptions.md R205 (both the spec's decision D12): an idle block presented with a reserved code refuses it by name. -/
def Obligations.ReservedCommandIsRefused : Prop :=
  ∀ (s : State) (c : Code) (arg : Arg) (rest : List CommandWord),
    s.resetAsserted = false → s.seqState = .idle → s.port = (c ++ arg) :: rest →
    (Machine.step s = .refused (.reservedCommand c) ↔ c = 0 ∨ 10 ≤ c.toNat)

/-- 40_frame_codec.md R114: what each kind of event does, for every running command at every place of its script: the request is appended to
the trace, the answer of a `TX` is discarded and that of a `CAP` kept, the step advances; on FAIL the exception is taken (60_exceptions.md
R201, R202: all of what an abort writes, and nothing else). FAILINFO as a register is log 1; the fields answers, draws and trace are log 2 and
log 3; that an abort drops a placed frame is log 6; the failed transfer in the trace is log 17. -/
def Obligations.RunningCommandIssuesItsNextEvent : Prop :=
  ∀ (i : Instr) (s : State) (sc : List Event) (e : Event),
    i.command? = some (s.cmd, s.arg) → s.seqState = .busy → script s.cmd s.arg = some sc → sc[s.step.toNat]? = some e →
    let t : State := { s with answers := s.answers.tail, draws := s.draws + 1 }
    let aborted (b : Byte) (info : FailInfo) : State := { t with
      trace := s.trace ++ [.tx b (.fail info)], err := true, errStep := s.step, done := true, seqState := .idle, failInfo := info, inject := none }
    exec i s = .next (match e with
      | .sel => { s with trace := s.trace ++ [.sel], step := s.step + 1 }
      | .desel => { s with trace := s.trace ++ [.desel], step := s.step + 1 }
      | .tx b =>
        match s.answerAt 0 with
        | .byte r => { t with trace := s.trace ++ [.tx b (.byte r)], step := s.step + 1 }
        | .fail info => aborted b info
      | .cap j =>
        match s.answerAt 0 with
        | .byte r => { t with
            trace := s.trace ++ [.tx 0x00 (.byte r)], step := s.step + 1
            rxbuf := ⟨if j = 0 then r else s.rxbuf.byte0, if j = 1 then r else s.rxbuf.byte1, if j = 2 then r else s.rxbuf.byte2⟩ }
        | .fail info => aborted 0x00 info)

/-- 40_frame_codec.md R115: at the end of its script a running command completes in one step without an event; a read forms RESULT from RXBUF,
any other leaves it; ERR stays. -/
def Obligations.RunningCommandCompletesAtTheEndOfItsScript : Prop :=
  ∀ (i : Instr) (s : State),
    i.command? = some (s.cmd, s.arg) → s.seqState = .busy → s.step.toNat = scriptLength s.cmd s.arg →
    exec i s = .next { s with
      result := if s.cmd = 0x2 ∨ s.cmd = 0x7 ∨ s.cmd = 0x9 then fdec s.rxbuf else s.result
      done := true, seqState := .idle }

/-- 60_exceptions.md R206 (the spec's decision D12): a command that is not the running one changes nothing while BUSY (log 7), and no fault comes
of it. -/
def Obligations.OtherCommandWhileBusyChangesNothing : Prop :=
  ∀ (i : Instr) (c : Code) (arg : Arg) (s : State),
    i.command? = some (c, arg) → s.seqState = .busy → (c, arg) ≠ (s.cmd, s.arg) → exec i s = .next s

/-! ### The frame kinds -/

/-- 40_frame_codec.md R106, R108, R114: while a command runs and an event is due, each of the eight frame kinds issues its event of this place,
written out byte by byte, with the effect of R114; a W frame with every data value. -/
def Obligations.FrameKindIssuesItsEventOfThisPlace : Prop :=
  ∀ (d : Data) (s : State), s.seqState = .busy → s.step.toNat < scriptLength s.cmd s.arg →
    let sent (b0 b1 b2 : Byte) : Host.Outcome State Fault Refusal := .next (
      if s.step.toNat % 5 = 0 then issue .sel s else if s.step.toNat % 5 = 1 then issue (.tx b0) s
      else if s.step.toNat % 5 = 2 then issue (.tx b1) s else if s.step.toNat % 5 = 3 then issue (.tx b2) s else issue .desel s)
    exec (.wDac d) s = sent (0x1#4 ++ d.extractLsb' 16 4) (d.extractLsb' 8 8) (d.extractLsb' 0 8) ∧
    exec (.wCtrl d) s = sent (0x2#4 ++ d.extractLsb' 16 4) (d.extractLsb' 8 8) (d.extractLsb' 0 8) ∧
    exec (.wClr d) s = sent (0x3#4 ++ d.extractLsb' 16 4) (d.extractLsb' 8 8) (d.extractLsb' 0 8) ∧
    exec (.wSwctrl d) s = sent (0x4#4 ++ d.extractLsb' 16 4) (d.extractLsb' 8 8) (d.extractLsb' 0 8) ∧
    exec .rDac s = sent 0x90 0x00 0x00 ∧ exec .rCtrl s = sent 0xA0 0x00 0x00 ∧ exec .rClr s = sent 0xB0 0x00 0x00 ∧
    exec .dummy s = .next (
      if s.step.toNat % 5 = 0 then issue .sel s else if s.step.toNat % 5 = 1 then issue (.cap 0) s
      else if s.step.toNat % 5 = 2 then issue (.cap 1) s else if s.step.toNat % 5 = 3 then issue (.cap 2) s else issue .desel s)

/-- 40_frame_codec.md R106, R107, R111: the five steps of a frame that sends, from its first place, with three bytes answered: exactly one
chip-select assertion with its three bytes, the answers reach no register, nothing else changes. -/
def Obligations.SentFrameRunsToItsEnd : Prop :=
  ∀ (f : Instr) (w : FrameWord) (s : State) (r : Nat → Byte),
    encode f = .frame w → f ≠ .dummy → s.seqState = .busy → s.step.toNat % 5 = 0 → s.step.toNat < scriptLength s.cmd s.arg →
    (∀ k < 3, s.answerAt k = .byte (r k)) →
    execTimes 5 f s = .next { s with
      step := s.step + 5, answers := s.answers.drop 3, draws := s.draws + 3
      trace := s.trace ++ [.sel, .tx (frameBytes w).byte0 (.byte (r 0)), .tx (frameBytes w).byte1 (.byte (r 1)),
        .tx (frameBytes w).byte2 (.byte (r 2)), .desel] }

/-- 40_frame_codec.md R108, R109: the five steps of the readback phase: three DUMMY bytes, the answers captured in order, nothing else changes. -/
def Obligations.ReadbackPhaseCapturesThreeBytes : Prop :=
  ∀ (s : State) (r : Nat → Byte),
    s.seqState = .busy → s.step.toNat % 5 = 0 → s.step.toNat < scriptLength s.cmd s.arg → (∀ k < 3, s.answerAt k = .byte (r k)) →
    execTimes 5 .dummy s = .next { s with
      step := s.step + 5, answers := s.answers.drop 3, draws := s.draws + 3, rxbuf := ⟨r 0, r 1, r 2⟩
      trace := s.trace ++ [.sel, .tx 0x00 (.byte (r 0)), .tx 0x00 (.byte (r 1)), .tx 0x00 (.byte (r 2)), .desel] }

/-- Where a command stands in one of its frames, running that frame kind is running the command (40_frame_codec.md R116, 30_encoding.md R79):
the two levels of the opcode table agree. That a frame kind is run by itself is the model's choice (log 6, log 7). -/
def Obligations.FrameStepIsTheCommandsStep : Prop :=
  ∀ (i f : Instr) (s : State),
    i.command? = some (s.cmd, s.arg) → s.seqState = .busy → s.step.toNat < scriptLength s.cmd s.arg →
    (commandFrames i)[s.step.toNat / 5]? = some f → exec f s = exec i s

/-- 10_state.md R22: an idle block issues no request, so a frame kind does nothing there; nor does it where no event is due (log 7). And no step
issues a placed frame (log 6) that the block must not issue (30_encoding.md R79, R82, R84, R85; 42_triggers.md R160; 70_reset_and_hazards.md
R240): it is refused. These are a top nibble that is no frame kind; a control word with bit 0 or one of bits 19:10 set, or with a LINCOMP code
other than the five; a software-control value other than the four; and top nibble 0 with nonzero data, or anywhere but in a readback phase. -/
def Obligations.NoFrameIsSentWhereNoneIsDue : Prop :=
  (∀ (f : Instr) (s : State), f.command? = none → (s.seqState = .idle ∨ scriptLength s.cmd s.arg ≤ s.step.toNat) → exec f s = .next s) ∧
  ∀ (s : State) (w : FrameWord), s.resetAsserted = false → s.seqState = .busy → s.inject = some w →
    (w.extractLsb' 20 4 ∉ [0#4, 1#4, 2#4, 3#4, 4#4, 9#4, 10#4, 11#4] → Machine.step s = .refused (.reservedFrame w)) ∧
    (∀ d : Data, w = 0x2#4 ++ d →
      (d.extractLsb' 0 1 ≠ 0 ∨ d.extractLsb' 10 10 ≠ 0 ∨ d.extractLsb' 6 4 ∉ [0b0000#4, 0b1001#4, 0b1010#4, 0b1011#4, 0b1100#4]) →
      Machine.step s = .refused (.reservedFrame w)) ∧
    (∀ d : Data, w = 0x4#4 ++ d → d ∉ [0x00001, 0x00002, 0x00004, 0x00000] → Machine.step s = .refused (.reservedFrame w)) ∧
    (∀ d : Data, w = 0x0#4 ++ d →
      (d ≠ 0 ∨ ∀ sc, script s.cmd s.arg = some sc → sc[s.step.toNat / 5 * 5 + 1]? ≠ some (.cap 0)) →
      Machine.step s = .refused (.reservedFrame w))

/-! ### Whole commands -/

/-- 41_configuration.md R136; 43_register_accessors.md R180, R182 (the address 3 of the clear register is the spec's decision D4): from idle, the
seven steps of a command that writes, with three bytes answered. -/
def Obligations.WriteCommandsRunToCompletion : Prop :=
  ∀ (arg : Arg) (s : State) (r : Nat → Byte), s.seqState = .idle → (∀ k < 3, s.answerAt k = .byte (r k)) →
    let finished (c : Code) (b0 b1 b2 : Byte) : Host.Outcome State Fault Refusal := .next { s with
      cmd := c, arg := arg, step := 5, err := false, errStep := 0, done := true, seqState := .idle, inject := none
      answers := s.answers.drop 3, draws := s.draws + 3
      trace := s.trace ++ [.sel, .tx b0 (.byte (r 0)), .tx b1 (.byte (r 1)), .tx b2 (.byte (r 2)), .desel] }
    execTimes 7 (.applyConfig arg) s = finished 0x1 0x20 ((cfga arg).extractLsb' 8 8) ((cfga arg).extractLsb' 0 8) ∧
    execTimes 7 (.setOutput arg) s = finished 0x6 (0x1#4 ++ arg.extractLsb' 16 4) (arg.extractLsb' 8 8) (arg.extractLsb' 0 8) ∧
    execTimes 7 (.setClear arg) s = finished 0x8 (0x3#4 ++ arg.extractLsb' 16 4) (arg.extractLsb' 8 8) (arg.extractLsb' 0 8)

/-- 42_triggers.md R161 to R164, R166: from idle, the twelve steps of a trigger, with six bytes answered: the flagged write, then the idle write,
and no register changed but by the sequencer. -/
def Obligations.TriggerCommandsRunToCompletion : Prop :=
  ∀ (arg : Arg) (s : State) (r : Nat → Byte), s.seqState = .idle → (∀ k < 6, s.answerAt k = .byte (r k)) →
    let finished (c : Code) (flag : Byte) : Host.Outcome State Fault Refusal := .next { s with
      cmd := c, arg := arg, step := 10, err := false, errStep := 0, done := true, seqState := .idle, inject := none
      answers := s.answers.drop 6, draws := s.draws + 6
      trace := s.trace ++ [.sel, .tx 0x40 (.byte (r 0)), .tx 0x00 (.byte (r 1)), .tx flag (.byte (r 2)), .desel,
        .sel, .tx 0x40 (.byte (r 3)), .tx 0x00 (.byte (r 4)), .tx 0x00 (.byte (r 5)), .desel] }
    execTimes 12 (.triggerUpdate arg) s = finished 0x3 0x01 ∧ execTimes 12 (.triggerClear arg) s = finished 0x4 0x02 ∧
    execTimes 12 (.triggerReset arg) s = finished 0x5 0x04

/-- 41_configuration.md R137; 43_register_accessors.md R181, R183: from idle, the twelve steps of a read, with six bytes answered: RESULT is the
last three bytes decoded, raw; the first three answers reach no register. -/
def Obligations.ReadCommandsRunToCompletion : Prop :=
  ∀ (arg : Arg) (s : State) (r : Nat → Byte), s.seqState = .idle → (∀ k < 6, s.answerAt k = .byte (r k)) →
    let finished (c : Code) (b0 : Byte) : Host.Outcome State Fault Refusal := .next { s with
      cmd := c, arg := arg, step := 10, err := false, errStep := 0, done := true, seqState := .idle, inject := none
      rxbuf := ⟨r 3, r 4, r 5⟩, result := (r 3).extractLsb' 0 4 ++ r 4 ++ r 5
      answers := s.answers.drop 6, draws := s.draws + 6
      trace := s.trace ++ [.sel, .tx b0 (.byte (r 0)), .tx 0x00 (.byte (r 1)), .tx 0x00 (.byte (r 2)), .desel,
        .sel, .tx 0x00 (.byte (r 3)), .tx 0x00 (.byte (r 4)), .tx 0x00 (.byte (r 5)), .desel] }
    execTimes 12 (.readConfig arg) s = finished 0x2 0xA0 ∧ execTimes 12 (.getOutput arg) s = finished 0x7 0x90 ∧
    execTimes 12 (.getClear arg) s = finished 0x9 0xB0

/-- 60_exceptions.md R202, R203, R207; 40_frame_codec.md R112: a command whose first failing transfer stands at step `p` of its script ends there:
`p + 2` steps from idle it is over, every request up to that transfer was issued and none after it, and the status says where. -/
def Obligations.CommandAbortsAtItsFirstFailingTransfer : Prop :=
  ∀ (i : Instr) (c : Code) (arg : Arg) (sc : List Event) (s : State) (p : Nat) (b : Byte) (info : FailInfo),
    i.command? = some (c, arg) → script c arg = some sc → s.seqState = .idle →
    sc[p]?.map Event.request = some (.xfer b) →
    (∀ k < ((sc.take p).filter (fun e => e ≠ .sel ∧ e ≠ .desel)).length, ∃ r, s.answerAt k = .byte r) →
    s.answerAt ((sc.take p).filter (fun e => e ≠ .sel ∧ e ≠ .desel)).length = .fail info →
    ∃ t, execTimes (p + 2) i s = .next t ∧
      t.seqState = .idle ∧ t.done = true ∧ t.err = true ∧ t.errStep.toNat = p ∧ t.step.toNat = p ∧ t.failInfo = info ∧
      t.cmd = c ∧ t.arg = arg ∧ t.result = s.result ∧ t.port = s.port ∧
      t.trace.map TraceEvent.request = s.trace.map TraceEvent.request ++ (sc.take (p + 1)).map Event.request ∧
      t.trace.getLast? = some (.tx b (.fail info))

/-- 40_frame_codec.md R113 to R116, 60_exceptions.md R202: the sequencer's steps, from a command presented to the idle block until it waits again,
are the command in one go, whatever the transport answers and wherever a transfer fails. -/
def Obligations.SequencerRefinesTheWholeCommand : Prop :=
  ∀ (s : State) (c : Code) (arg : Arg),
    s.seqState = .idle → s.resetLine = [] → s.inject = none → s.port = [c ++ arg] → (1 ≤ c.toNat ∧ c.toNat ≤ 9) →
    stepTimes (scriptLength c arg + 2) s = .next (commandOutcome c arg { s with port := [] })

/-- 20_memory.md R63: an accepted command ends, completed or aborted, after at most 10 transport events and one completing step. That
it ends rests on a transport that answers every request (log 12; the spec's decision D19, 60_exceptions.md R219). -/
def Obligations.EveryRunningCommandEnds : Prop :=
  ∀ s : State, s.Safe → s.inject = none → s.seqState = .busy → s.resetLine = [] →
    ∃ n t, n ≤ 11 ∧ stepTimes n s = .next t ∧ t.seqState = .idle ∧ t.done = true ∧
      t.cmd = s.cmd ∧ t.arg = s.arg ∧ t.port = s.port ∧ s.trace.length ≤ t.trace.length ∧ t.trace.length ≤ s.trace.length + 10

/-- 40_frame_codec.md R107: two runs of the same write or trigger command that differ only in the bytes the transport answers end with the same
registers, and issue the same requests. -/
def Obligations.AnswersToWritesReachNoRegister : Prop :=
  ∀ (i : Instr) (c : Code) (arg : Arg) (s : State) (xs ys : List Byte),
    i.command? = some (c, arg) → isReadCode c = false → s.seqState = .idle → xs.length = 6 → ys.length = 6 →
    ∃ t u, execTimes (scriptLength c arg + 2) i { s with answers := xs.map .byte } = .next t ∧
      execTimes (scriptLength c arg + 2) i { s with answers := ys.map .byte } = .next u ∧
      t.done = true ∧ u = { t with answers := u.answers, trace := u.trace } ∧
      t.trace.map TraceEvent.request = u.trace.map TraceEvent.request

/-! ### The machine's step -/

/-- A step runs the decoded instruction: the one the port presents when idle (taken off the port), the latched one when busy, or the placed frame
(log 6); around it the step only samples the reset input. A placed frame runs exactly where it is the running script's own frame at this place,
or an allowed control word in a control word's place (`PlacedIsDue`); any other is refused (70_reset_and_hazards.md R240, log 6). The due frame
is the three bytes of the script's assertion around `step`; outside the script there is none. With nothing presented an idle block waits. -/
def Obligations.StepRunsTheDecodedInstruction : Prop :=
  ∀ (s : State) (i : Instr), s.resetAsserted = false →
    (∀ w rest, s.seqState = .idle → s.port = w :: rest → decode (.cmd w) = .ok i →
      Machine.step s = exec i { s with port := rest, resetLine := s.resetLine.tail }) ∧
    (s.seqState = .busy → s.inject = none → decode (.cmd (s.cmd ++ s.arg)) = .ok i →
      Machine.step s = exec i { s with resetLine := s.resetLine.tail }) ∧
    (∀ w, s.seqState = .busy → s.inject = some w → decode (.frame w) = .ok i → s.PlacedIsDue w →
      Machine.step s = exec i { s with resetLine := s.resetLine.tail, inject := if s.step.toNat % 5 = 4 then none else some w }) ∧
    (∀ w, s.seqState = .busy → s.inject = some w → ¬ s.PlacedIsDue w → Machine.step s = .refused (.reservedFrame w)) ∧
    (∀ sc, script s.cmd s.arg = some sc → s.step.toNat < sc.length →
      ∃ b0 b1 b2, sc[s.step.toNat / 5 * 5 + 1]?.map Event.request = some (.xfer b0) ∧
        sc[s.step.toNat / 5 * 5 + 2]?.map Event.request = some (.xfer b1) ∧
        sc[s.step.toNat / 5 * 5 + 3]?.map Event.request = some (.xfer b2) ∧ s.dueFrame = some (b0 ++ b1 ++ b2)) ∧
    (scriptLength s.cmd s.arg ≤ s.step.toNat → s.dueFrame = none) ∧
    (s.seqState = .idle → s.port = [] → Machine.step s = .next { s with resetLine := s.resetLine.tail })

/-- 10_state.md R43 (the spec's decision D11): the registers after reset; and what log entries 1 to 6 name for the rest. -/
def Obligations.ResetStateHoldsTheResetValues : Prop :=
  State.reset = { seqState := .idle, cmd := 0x0, arg := 0x00000000, step := 0, rxbuf := ⟨0x00, 0x00, 0x00⟩, result := 0x00000, err := false, errStep := 0, done := false, failInfo := [], trace := [], port := [], answers := [], draws := 0, resetLine := [], inject := none } ∧
  State.reset.statusPort.ready = true ∧ State.reset.transportRequest = none

/-- 70_reset_and_hazards.md R230, R232 (the spec's decision D11): the reset input, at any step and in any state, puts every register at its reset
value, ends a running command without completing it and issues no event; what the caller and the transport hold stays theirs (log 5). R43
gives FAILINFO no value: that it becomes empty is the model's choice (log 1). -/
def Obligations.AssertedResetEndsAnyCommand : Prop :=
  ∀ s : State, s.resetAsserted = true →
    s.transportRequest = none ∧
    ∃ t, Machine.step s = .next t ∧
      t.seqState = .idle ∧ t.cmd = 0 ∧ t.arg = 0 ∧ t.step = 0 ∧ t.rxbuf = ⟨0, 0, 0⟩ ∧ t.result = 0 ∧ t.err = false ∧ t.errStep = 0 ∧
      t.done = false ∧ t.failInfo = [] ∧ t.inject = none ∧
      t.trace = s.trace ∧ t.port = s.port ∧ t.answers = s.answers ∧ t.draws = s.draws ∧ t.resetLine = s.resetLine.tail

/-- 00_scope.md R11; 20_memory.md R61; 60_exceptions.md R215: a step that is not a reset issues at most one request, the one on the transport port,
and appends exactly that to the trace. -/
def Obligations.EachStepIssuesTheRequestOnThePort : Prop :=
  ∀ s t : State, s.resetAsserted = false → Machine.step s = .next t →
    (s.transportRequest = none ∧ t.trace = s.trace) ∨
    ∃ e, s.transportRequest = some e.request ∧ t.trace = s.trace ++ [e]

/-- 40_frame_codec.md R109: only a readback event writes RXBUF, and it writes the byte of its own place with the answer of this transfer. -/
def Obligations.OnlyReadbackEventsWriteRxbuf : Prop :=
  ∀ s t : State, s.resetAsserted = false → Machine.step s = .next t → t.rxbuf ≠ s.rxbuf →
    ∃ j r, s.dueEvent = some (.cap j) ∧ s.answerAt 0 = .byte r ∧
      t.rxbuf = ⟨if j = 0 then r else s.rxbuf.byte0, if j = 1 then r else s.rxbuf.byte1, if j = 2 then r else s.rxbuf.byte2⟩

/-- 10_state.md R21, the line of RESULT; 40_frame_codec.md R115: only the completion of a read command writes RESULT. -/
def Obligations.OnlyCompletedReadsWriteResult : Prop :=
  ∀ s t : State, s.resetAsserted = false → Machine.step s = .next t → t.result ≠ s.result →
    s.seqState = .busy ∧ isReadCode s.cmd = true ∧ s.step.toNat = scriptLength s.cmd s.arg ∧
    t.seqState = .idle ∧ t.done = true ∧ t.result = fdec s.rxbuf ∧ t.trace = s.trace

/-- 10_state.md R23: CMD and ARG change only when a command is accepted, and not while BUSY. -/
def Obligations.OnlyAcceptingWritesCommandAndArgument : Prop :=
  ∀ s t : State, s.resetAsserted = false → Machine.step s = .next t →
    (s.seqState = .busy → t.cmd = s.cmd ∧ t.arg = s.arg) ∧
    ((t.cmd ≠ s.cmd ∨ t.arg ≠ s.arg) → s.seqState = .idle ∧ t.seqState = .busy ∧ s.port = (t.cmd ++ t.arg) :: t.port)

/-- 10_state.md R25: who sets and who clears DONE and ERR, over every step but the reset of the block; with it, what an abort records in ERR_STEP
and FAILINFO (60_exceptions.md R200, R202; FAILINFO as a register is log 1) and that accepting clears ERR_STEP and step (40_frame_codec.md
R113). -/
def Obligations.FlagsChangeOnlyAsTheirRuleSays : Prop :=
  ∀ s t : State, s.resetAsserted = false → Machine.step s = .next t →
    (s.done = false → t.done = true → s.seqState = .busy ∧ t.seqState = .idle) ∧
    (s.done = true → t.done = false → s.seqState = .idle ∧ t.seqState = .busy) ∧
    (s.err = false → t.err = true → s.seqState = .busy ∧ t.seqState = .idle ∧
      ∃ info, s.answerAt 0 = .fail info ∧ t.failInfo = info ∧ t.errStep = s.step) ∧
    (s.err = true → t.err = false → s.seqState = .idle ∧ t.seqState = .busy) ∧
    (s.seqState = .busy → t.seqState = .idle → t.done = true) ∧
    (s.seqState = .idle → t.seqState = .busy → t.done = false ∧ t.err = false ∧ t.errStep = 0 ∧ t.step = 0)

/-- 60_exceptions.md R201: an exception is raised when, and only when, a transfer is due and the transport answers FAIL; SEL and DESEL never
raise it. -/
def Obligations.FailureIsRaisedOnlyByAFailedTransfer : Prop :=
  ∀ s t : State, s.resetAsserted = false → s.err = false → Machine.step s = .next t →
    (t.err = true ↔ (∃ e b, s.dueEvent = some e ∧ e.request = .xfer b) ∧ ∃ info, s.answerAt 0 = .fail info)

/-- 60_exceptions.md R216, R217 with R138: what the status port presents after a read that completed: ready, done, no error, the raw value, and its
field view beside it. -/
def Obligations.StatusPortPresentsTheResult : Prop :=
  ∀ (i : Instr) (s : State), i.command? = some (s.cmd, s.arg) → s.seqState = .busy → s.err = false → isReadCode s.cmd = true →
    s.step.toNat = scriptLength s.cmd s.arg →
    ∃ t, exec i s = .next t ∧ t.statusPort =
      { ready := true, done := true, err := false, errStep := s.errStep, failInfo := s.failInfo, result := fdec s.rxbuf, fields := cfgd (fdec s.rxbuf) }

/-! ### Invariants -/

/-- The reset state is safe. -/
def Obligations.ResetStateIsSafe : Prop := State.reset.Safe

/-- 10_state.md R24, R25; 60_exceptions.md R202; 40_frame_codec.md R113 to R116: every step keeps the registers safe (`State.Safe`), with and without
a placed frame, under any answers and any reset input. -/
def Obligations.EveryStepKeepsTheRegistersSafe : Prop :=
  ∀ s t : State, s.Safe → Machine.step s = .next t → t.Safe

/-- From a safe state no step faults, and a step is refused only for a reserved command word presented to the idle block, or a placed frame that may
not be issued here (log 6, log 8, log 13). -/
def Obligations.SafeStatesNeverFault : Prop :=
  ∀ s : State, s.Safe →
    (∀ f, Machine.step s ≠ .fault f) ∧
    (∀ r, Machine.step s = .refused r →
      (∃ c, r = .reservedCommand c ∧ s.seqState = .idle ∧ (c = 0 ∨ 10 ≤ c.toNat) ∧ ∃ arg : Arg, s.port.head? = some (c ++ arg)) ∨
      (∃ w, r = .reservedFrame w ∧ s.inject = some w ∧ ¬ s.PlacedIsDue w))

/-- The empty trace of the reset state is legal. -/
def Obligations.ResetTraceIsLegal : Prop := State.reset.TraceLegal

/-- 20_memory.md R54, R61; 60_exceptions.md R203; 30_encoding.md R82: every step keeps the trace legal: it is always one command's script after the
other, each whole or cut short once, never interleaved, and the running command's part is exactly the events before `step`. -/
def Obligations.EveryStepKeepsTheTraceLegal : Prop :=
  ∀ s t : State, s.TraceLegal → Machine.step s = .next t → t.TraceLegal

/-- 30_encoding.md R82, 70_reset_and_hazards.md R240: in a legal trace a frame's first byte has one of the eight top nibbles of R79; under top nibble
0 every byte sent is 0x00, so nothing is written to address 0; and three bytes sent are a frame that decodes to a well-formed frame kind, so no
reserved address and no undefined LINCOMP code or trigger value is sent. -/
def Obligations.NoReservedFrameIsEverSent : Prop :=
  ∀ (s : State) (k : Nat) (b : Byte) (rx : XferAnswer), s.TraceLegal →
    s.trace[k]? = some .sel → s.trace[k + 1]? = some (.tx b rx) →
    b.extractLsb' 4 4 ∈ [0#4, 1#4, 2#4, 3#4, 4#4, 9#4, 10#4, 11#4] ∧
    (b.extractLsb' 4 4 = 0#4 → b = 0x00) ∧
    ∀ (b1 : Byte) (rx1 : XferAnswer), s.trace[k + 2]? = some (.tx b1 rx1) →
      (b.extractLsb' 4 4 = 0#4 → b1 = 0x00) ∧
      ∀ (b2 : Byte) (rx2 : XferAnswer), s.trace[k + 3]? = some (.tx b2 rx2) →
        (b.extractLsb' 4 4 = 0#4 → b2 = 0x00) ∧
        ∃ f, decodeFrameBytes [b, b1, b2] = .ok f ∧ f.wellFormed = true

/-! ### Program text -/

/-- 30_encoding.md R88 (the spec's decision D20; log 15): the program P1 of 95_test_vectors.md and the source's call names, assembled. -/
def Obligations.ProgramTextAssembles : Prop :=
  assemble "APPLY_CONFIG 2        ; 0x100000002\nSET_OUTPUT 0x80000    ; 0x600080000\nTRIGGER_UPDATE" = some [0x100000002, 0x600080000, 0x300000000] ∧
  assemble "setDAC 5\nsetDACconfig 0x2\ngetDAC\nupdateDAC" = some [0x600000005, 0x100000002, 0x700000000, 0x300000000] ∧
  assemble "GET_OUTPUT 1" = none ∧ assemble "SET_CLEAR" = none
end

