-- ==== Sys2Proof/Laws/Codec.lean ====
section
/-! SUPPORT. Small laws of the decoder and the combinational units. -/

namespace Sys2Proof.Machine

/-- Truncation is the remainder by 2^20 (00_scope.md R9). -/
theorem trunc20_eq_ofNat (v : Nat) : trunc20 v = BitVec.ofNat 20 v := by
  have h : v &&& 0xFFFFF = v % 2 ^ 20 := Nat.and_two_pow_sub_one_eq_mod v 20
  unfold trunc20
  rw [h]
  apply BitVec.eq_of_toNat_eq
  simp

/-- The upper field of two fields joined. -/
theorem extract_upper {m n : Nat} (x : BitVec n) (y : BitVec m) : (x ++ y).extractLsb' m n = x := by
  apply BitVec.eq_of_getLsbD_eq
  intro k hk
  simp [BitVec.getLsbD_append, hk]

/-- The lower field of two fields joined. -/
theorem extract_lower {m n : Nat} (x : BitVec n) (y : BitVec m) : (x ++ y).extractLsb' 0 m = y := by
  apply BitVec.eq_of_getLsbD_eq
  intro k hk
  simp [BitVec.getLsbD_append, hk]

/-- A word is its two fields joined. -/
theorem append_of_extract {m n : Nat} (w : BitVec (n + m)) : w.extractLsb' m n ++ w.extractLsb' 0 m = w := by
  apply BitVec.eq_of_getLsbD_eq
  intro k hk
  rw [BitVec.getLsbD_append, BitVec.getLsbD_extractLsb', BitVec.getLsbD_extractLsb']
  by_cases h : k < m
  · simp [h]
  · simp [h, show k - m < n by omega, show m + (k - m) = k by omega]

/-- A command word is its code and its argument joined. -/
theorem commandWord_fields (w : CommandWord) : (w.extractLsb' 32 4 ++ w.extractLsb' 0 32 : CommandWord) = w :=
  append_of_extract (m := 32) (n := 4) w

/-- A frame word is its kind and its data joined. -/
theorem frameWord_fields (w : FrameWord) : (w.extractLsb' 20 4 ++ w.extractLsb' 0 20 : FrameWord) = w :=
  append_of_extract (m := 20) (n := 4) w

/-- The fields of a command word. -/
theorem code_of_append (c : Code) (arg : Arg) : (c ++ arg : CommandWord).extractLsb' 32 4 = c := extract_upper c arg

theorem arg_of_append (c : Code) (arg : Arg) : (c ++ arg : CommandWord).extractLsb' 0 32 = arg := extract_lower c arg

/-- The fields of a frame word. -/
theorem kind_of_append (n : BitVec 4) (d : Data) : (n ++ d : FrameWord).extractLsb' 20 4 = n := extract_upper n d

theorem data_of_append (n : BitVec 4) (d : Data) : (n ++ d : FrameWord).extractLsb' 0 20 = d := extract_lower n d

/-- Two fields joined, under the mask of the upper one. -/
theorem and_mask_of_append (c : BitVec 4) {k : Nat} (y : BitVec k) : (c ++ y).toNat &&& (15 <<< k) = c.toNat <<< k := by
  apply Nat.eq_of_testBit_eq
  intro i
  rw [BitVec.toNat_append, Nat.testBit_and, Nat.testBit_or]
  simp only [Nat.testBit_shiftLeft]
  by_cases hi : k ≤ i
  · have hy : y.toNat.testBit i = false := Nat.testBit_lt_two_pow (Nat.lt_of_lt_of_le y.isLt (Nat.pow_le_pow_right (by omega) hi))
    have hc : c.toNat.testBit (i - k) = (c.toNat.testBit (i - k) && (15 : Nat).testBit (i - k)) := by
      rw [← Nat.testBit_and, show (15 : Nat) = 2 ^ 4 - 1 from rfl, Nat.and_two_pow_sub_one_eq_mod, Nat.mod_eq_of_lt c.isLt]
    simp [hi, hy, ← hc]
  · simp [hi]

/-- What the decoder makes of a word given by its code and argument. -/
theorem decodeCommand_append (c : Code) (arg : Arg) : decodeCommand (c ++ arg) = commandOfCode c arg := by
  rw [decodeCommand, code_of_append, arg_of_append]

/-- A code stands for the command that has it. -/
theorem commandOfCode_eq_ok {c : Code} {arg : Arg} {i : Instr} : commandOfCode c arg = .ok i → i.command? = some (c, arg) := by
  intro h
  unfold commandOfCode at h
  split at h <;> cases h <;> rename_i hc <;>
    exact congrArg (fun k => some (k, arg)) (BitVec.eq_of_toNat_eq hc.symm)

/-- A placed frame that decodes is a frame kind. -/
theorem command?_of_decodeFrame {w : FrameWord} {f : Instr} (h : decodeFrame w = .ok f) : f.command? = none := by
  simp only [decodeFrame] at h
  split at h <;> (try split at h) <;> first | (cases h; done) | (cases h; rfl)

/-- The decoder's rejection of a frame names the frame. -/
theorem error_of_decodeFrame {w : FrameWord} {e : DecodeError} (h : decodeFrame w = .error e) : e = .reservedFrame w := by
  simp only [decodeFrame] at h
  split at h <;> (try split at h) <;> first | (cases h; done) | (cases h; rfl)

/-- The decoder's rejection of a command names its code, which is reserved. -/
theorem error_of_decodeCommand {c : Code} {arg : Arg} {e : DecodeError} (h : decodeCommand (c ++ arg) = .error e) :
    e = .reservedCommand c ∧ script c arg = none := by
  rw [decodeCommand_append, commandOfCode] at h
  split at h <;> cases h
  rename_i h1 h2 h3 h4 h5 h6 h7 h8 h9
  refine ⟨rfl, ?_⟩
  unfold script
  split <;> first | contradiction | rfl

end Sys2Proof.Machine
end

