-- ==== Sys2Proof/Laws/Scripts.lean ====
section
/-! SUPPORT. The scripts of the commands: their lengths, and the meaning of every instruction as one of the two shapes. -/

namespace Sys2Proof.Machine

@[simp] theorem length_sendBytes (f : Bytes3) : (sendBytes f).length = 5 := rfl

@[simp] theorem length_writeOp (a : Addr) (v : Data) : (writeOp a v).length = 5 := rfl

@[simp] theorem length_readOp (a : Addr) : (readOp a).length = 10 := rfl

@[simp] theorem length_trig (t : Data) : (trig t).length = 10 := rfl

/-- A code with a script is one of the nine, and its script has 5 or 10 events. -/
theorem script_length {c : Code} {arg : Arg} {sc : List Event} (h : script c arg = some sc) :
    (1 ≤ c.toNat ∧ c.toNat ≤ 9) ∧ (sc.length = 5 ∨ sc.length = 10) ∧ scriptLength c arg = sc.length := by
  refine ⟨?_, ?_, by simp [scriptLength, h]⟩ <;> unfold script at h <;> split at h <;> cases h <;> first | omega | exact .inl rfl | exact .inr rfl

/-- A command's code has a script. -/
theorem script_of_command {i : Instr} {c : Code} {arg : Arg} (h : i.command? = some (c, arg)) : ∃ sc, script c arg = some sc := by
  cases i <;> simp only [Instr.command?, Option.some.injEq, Prod.mk.injEq, reduceCtorEq] at h <;> obtain ⟨rfl, rfl⟩ := h <;> exact ⟨_, rfl⟩

/-- The meaning of every command is the one shape, over its script and its completion. -/
theorem exec_of_command {i : Instr} {c : Code} {arg : Arg} {sc : List Event} (h : i.command? = some (c, arg)) (hs : script c arg = some sc)
    (s : State) : exec i s = runCommand c arg sc (completeFor c) s := by
  cases i <;> simp only [Instr.command?, Option.some.injEq, Prod.mk.injEq, reduceCtorEq] at h <;> obtain ⟨rfl, rfl⟩ := h <;> cases hs <;> rfl

/-- The meaning of every frame kind is the other shape, over its five events. -/
theorem exec_of_frame {f : Instr} (h : f.command? = none) (s : State) : exec f s = sendFrame (frameEvents f) s := by
  cases f <;> first | rfl | cases h

/-- Every frame kind has five events. -/
theorem length_frameEvents {f : Instr} (h : f.command? = none) : (frameEvents f).length = 5 := by
  cases f <;> first | rfl | cases h

end Sys2Proof.Machine
end

