-- ==== Sys2Proof/Laws/State.lean ====
section
/-! SUPPORT. Each field after each named update of the state, so that no later proof unfolds an update. -/

namespace Sys2Proof.Machine

/-! clearFlags -/

@[simp] theorem State.clearFlags_seqState (s : State) : s.clearFlags.seqState = s.seqState := rfl
@[simp] theorem State.clearFlags_cmd (s : State) : s.clearFlags.cmd = s.cmd := rfl
@[simp] theorem State.clearFlags_arg (s : State) : s.clearFlags.arg = s.arg := rfl
@[simp] theorem State.clearFlags_step (s : State) : s.clearFlags.step = s.step := rfl
@[simp] theorem State.clearFlags_rxbuf (s : State) : s.clearFlags.rxbuf = s.rxbuf := rfl
@[simp] theorem State.clearFlags_result (s : State) : s.clearFlags.result = s.result := rfl
@[simp] theorem State.clearFlags_err (s : State) : s.clearFlags.err = false := rfl
@[simp] theorem State.clearFlags_errStep (s : State) : s.clearFlags.errStep = 0 := rfl
@[simp] theorem State.clearFlags_done (s : State) : s.clearFlags.done = false := rfl
@[simp] theorem State.clearFlags_failInfo (s : State) : s.clearFlags.failInfo = s.failInfo := rfl
@[simp] theorem State.clearFlags_trace (s : State) : s.clearFlags.trace = s.trace := rfl
@[simp] theorem State.clearFlags_port (s : State) : s.clearFlags.port = s.port := rfl
@[simp] theorem State.clearFlags_answers (s : State) : s.clearFlags.answers = s.answers := rfl
@[simp] theorem State.clearFlags_draws (s : State) : s.clearFlags.draws = s.draws := rfl
@[simp] theorem State.clearFlags_resetLine (s : State) : s.clearFlags.resetLine = s.resetLine := rfl
@[simp] theorem State.clearFlags_inject (s : State) : s.clearFlags.inject = s.inject := rfl

/-! setDone -/

@[simp] theorem State.setDone_seqState (s : State) : s.setDone.seqState = s.seqState := rfl
@[simp] theorem State.setDone_cmd (s : State) : s.setDone.cmd = s.cmd := rfl
@[simp] theorem State.setDone_arg (s : State) : s.setDone.arg = s.arg := rfl
@[simp] theorem State.setDone_step (s : State) : s.setDone.step = s.step := rfl
@[simp] theorem State.setDone_rxbuf (s : State) : s.setDone.rxbuf = s.rxbuf := rfl
@[simp] theorem State.setDone_result (s : State) : s.setDone.result = s.result := rfl
@[simp] theorem State.setDone_err (s : State) : s.setDone.err = s.err := rfl
@[simp] theorem State.setDone_errStep (s : State) : s.setDone.errStep = s.errStep := rfl
@[simp] theorem State.setDone_done (s : State) : s.setDone.done = true := rfl
@[simp] theorem State.setDone_failInfo (s : State) : s.setDone.failInfo = s.failInfo := rfl
@[simp] theorem State.setDone_trace (s : State) : s.setDone.trace = s.trace := rfl
@[simp] theorem State.setDone_port (s : State) : s.setDone.port = s.port := rfl
@[simp] theorem State.setDone_answers (s : State) : s.setDone.answers = s.answers := rfl
@[simp] theorem State.setDone_draws (s : State) : s.setDone.draws = s.draws := rfl
@[simp] theorem State.setDone_resetLine (s : State) : s.setDone.resetLine = s.resetLine := rfl
@[simp] theorem State.setDone_inject (s : State) : s.setDone.inject = s.inject := rfl

/-! setError -/

@[simp] theorem State.setError_seqState (k : BitVec 4) (s : State) : (s.setError k).seqState = s.seqState := rfl
@[simp] theorem State.setError_cmd (k : BitVec 4) (s : State) : (s.setError k).cmd = s.cmd := rfl
@[simp] theorem State.setError_arg (k : BitVec 4) (s : State) : (s.setError k).arg = s.arg := rfl
@[simp] theorem State.setError_step (k : BitVec 4) (s : State) : (s.setError k).step = s.step := rfl
@[simp] theorem State.setError_rxbuf (k : BitVec 4) (s : State) : (s.setError k).rxbuf = s.rxbuf := rfl
@[simp] theorem State.setError_result (k : BitVec 4) (s : State) : (s.setError k).result = s.result := rfl
@[simp] theorem State.setError_err (k : BitVec 4) (s : State) : (s.setError k).err = true := rfl
@[simp] theorem State.setError_errStep (k : BitVec 4) (s : State) : (s.setError k).errStep = k := rfl
@[simp] theorem State.setError_done (k : BitVec 4) (s : State) : (s.setError k).done = true := rfl
@[simp] theorem State.setError_failInfo (k : BitVec 4) (s : State) : (s.setError k).failInfo = s.failInfo := rfl
@[simp] theorem State.setError_trace (k : BitVec 4) (s : State) : (s.setError k).trace = s.trace := rfl
@[simp] theorem State.setError_port (k : BitVec 4) (s : State) : (s.setError k).port = s.port := rfl
@[simp] theorem State.setError_answers (k : BitVec 4) (s : State) : (s.setError k).answers = s.answers := rfl
@[simp] theorem State.setError_draws (k : BitVec 4) (s : State) : (s.setError k).draws = s.draws := rfl
@[simp] theorem State.setError_resetLine (k : BitVec 4) (s : State) : (s.setError k).resetLine = s.resetLine := rfl
@[simp] theorem State.setError_inject (k : BitVec 4) (s : State) : (s.setError k).inject = s.inject := rfl

/-! takeAnswer -/

@[simp] theorem State.takeAnswer_seqState (s : State) : s.takeAnswer.seqState = s.seqState := rfl
@[simp] theorem State.takeAnswer_cmd (s : State) : s.takeAnswer.cmd = s.cmd := rfl
@[simp] theorem State.takeAnswer_arg (s : State) : s.takeAnswer.arg = s.arg := rfl
@[simp] theorem State.takeAnswer_step (s : State) : s.takeAnswer.step = s.step := rfl
@[simp] theorem State.takeAnswer_rxbuf (s : State) : s.takeAnswer.rxbuf = s.rxbuf := rfl
@[simp] theorem State.takeAnswer_result (s : State) : s.takeAnswer.result = s.result := rfl
@[simp] theorem State.takeAnswer_err (s : State) : s.takeAnswer.err = s.err := rfl
@[simp] theorem State.takeAnswer_errStep (s : State) : s.takeAnswer.errStep = s.errStep := rfl
@[simp] theorem State.takeAnswer_done (s : State) : s.takeAnswer.done = s.done := rfl
@[simp] theorem State.takeAnswer_failInfo (s : State) : s.takeAnswer.failInfo = s.failInfo := rfl
@[simp] theorem State.takeAnswer_trace (s : State) : s.takeAnswer.trace = s.trace := rfl
@[simp] theorem State.takeAnswer_port (s : State) : s.takeAnswer.port = s.port := rfl
@[simp] theorem State.takeAnswer_answers (s : State) : s.takeAnswer.answers = s.answers.tail := rfl
@[simp] theorem State.takeAnswer_draws (s : State) : s.takeAnswer.draws = s.draws + 1 := rfl
@[simp] theorem State.takeAnswer_resetLine (s : State) : s.takeAnswer.resetLine = s.resetLine := rfl
@[simp] theorem State.takeAnswer_inject (s : State) : s.takeAnswer.inject = s.inject := rfl

/-! record -/

@[simp] theorem State.record_seqState (e : TraceEvent) (s : State) : (s.record e).seqState = s.seqState := rfl
@[simp] theorem State.record_cmd (e : TraceEvent) (s : State) : (s.record e).cmd = s.cmd := rfl
@[simp] theorem State.record_arg (e : TraceEvent) (s : State) : (s.record e).arg = s.arg := rfl
@[simp] theorem State.record_step (e : TraceEvent) (s : State) : (s.record e).step = s.step := rfl
@[simp] theorem State.record_rxbuf (e : TraceEvent) (s : State) : (s.record e).rxbuf = s.rxbuf := rfl
@[simp] theorem State.record_result (e : TraceEvent) (s : State) : (s.record e).result = s.result := rfl
@[simp] theorem State.record_err (e : TraceEvent) (s : State) : (s.record e).err = s.err := rfl
@[simp] theorem State.record_errStep (e : TraceEvent) (s : State) : (s.record e).errStep = s.errStep := rfl
@[simp] theorem State.record_done (e : TraceEvent) (s : State) : (s.record e).done = s.done := rfl
@[simp] theorem State.record_failInfo (e : TraceEvent) (s : State) : (s.record e).failInfo = s.failInfo := rfl
@[simp] theorem State.record_trace (e : TraceEvent) (s : State) : (s.record e).trace = s.trace ++ [e] := rfl
@[simp] theorem State.record_port (e : TraceEvent) (s : State) : (s.record e).port = s.port := rfl
@[simp] theorem State.record_answers (e : TraceEvent) (s : State) : (s.record e).answers = s.answers := rfl
@[simp] theorem State.record_draws (e : TraceEvent) (s : State) : (s.record e).draws = s.draws := rfl
@[simp] theorem State.record_resetLine (e : TraceEvent) (s : State) : (s.record e).resetLine = s.resetLine := rfl
@[simp] theorem State.record_inject (e : TraceEvent) (s : State) : (s.record e).inject = s.inject := rfl

/-! advance -/

@[simp] theorem State.advance_seqState (s : State) : s.advance.seqState = s.seqState := rfl
@[simp] theorem State.advance_cmd (s : State) : s.advance.cmd = s.cmd := rfl
@[simp] theorem State.advance_arg (s : State) : s.advance.arg = s.arg := rfl
@[simp] theorem State.advance_step (s : State) : s.advance.step = s.step + 1 := rfl
@[simp] theorem State.advance_rxbuf (s : State) : s.advance.rxbuf = s.rxbuf := rfl
@[simp] theorem State.advance_result (s : State) : s.advance.result = s.result := rfl
@[simp] theorem State.advance_err (s : State) : s.advance.err = s.err := rfl
@[simp] theorem State.advance_errStep (s : State) : s.advance.errStep = s.errStep := rfl
@[simp] theorem State.advance_done (s : State) : s.advance.done = s.done := rfl
@[simp] theorem State.advance_failInfo (s : State) : s.advance.failInfo = s.failInfo := rfl
@[simp] theorem State.advance_trace (s : State) : s.advance.trace = s.trace := rfl
@[simp] theorem State.advance_port (s : State) : s.advance.port = s.port := rfl
@[simp] theorem State.advance_answers (s : State) : s.advance.answers = s.answers := rfl
@[simp] theorem State.advance_draws (s : State) : s.advance.draws = s.draws := rfl
@[simp] theorem State.advance_resetLine (s : State) : s.advance.resetLine = s.resetLine := rfl
@[simp] theorem State.advance_inject (s : State) : s.advance.inject = s.inject := rfl

/-! capture -/

@[simp] theorem State.capture_seqState (j : Fin 3) (r : Byte) (s : State) : (s.capture j r).seqState = s.seqState := by
  fin_cases j <;> rfl
@[simp] theorem State.capture_cmd (j : Fin 3) (r : Byte) (s : State) : (s.capture j r).cmd = s.cmd := by
  fin_cases j <;> rfl
@[simp] theorem State.capture_arg (j : Fin 3) (r : Byte) (s : State) : (s.capture j r).arg = s.arg := by
  fin_cases j <;> rfl
@[simp] theorem State.capture_step (j : Fin 3) (r : Byte) (s : State) : (s.capture j r).step = s.step := by
  fin_cases j <;> rfl
@[simp] theorem State.capture_result (j : Fin 3) (r : Byte) (s : State) : (s.capture j r).result = s.result := by
  fin_cases j <;> rfl
@[simp] theorem State.capture_err (j : Fin 3) (r : Byte) (s : State) : (s.capture j r).err = s.err := by
  fin_cases j <;> rfl
@[simp] theorem State.capture_errStep (j : Fin 3) (r : Byte) (s : State) : (s.capture j r).errStep = s.errStep := by
  fin_cases j <;> rfl
@[simp] theorem State.capture_done (j : Fin 3) (r : Byte) (s : State) : (s.capture j r).done = s.done := by
  fin_cases j <;> rfl
@[simp] theorem State.capture_failInfo (j : Fin 3) (r : Byte) (s : State) : (s.capture j r).failInfo = s.failInfo := by
  fin_cases j <;> rfl
@[simp] theorem State.capture_trace (j : Fin 3) (r : Byte) (s : State) : (s.capture j r).trace = s.trace := by
  fin_cases j <;> rfl
@[simp] theorem State.capture_port (j : Fin 3) (r : Byte) (s : State) : (s.capture j r).port = s.port := by
  fin_cases j <;> rfl
@[simp] theorem State.capture_answers (j : Fin 3) (r : Byte) (s : State) : (s.capture j r).answers = s.answers := by
  fin_cases j <;> rfl
@[simp] theorem State.capture_draws (j : Fin 3) (r : Byte) (s : State) : (s.capture j r).draws = s.draws := by
  fin_cases j <;> rfl
@[simp] theorem State.capture_resetLine (j : Fin 3) (r : Byte) (s : State) : (s.capture j r).resetLine = s.resetLine := by
  fin_cases j <;> rfl
@[simp] theorem State.capture_inject (j : Fin 3) (r : Byte) (s : State) : (s.capture j r).inject = s.inject := by
  fin_cases j <;> rfl
theorem State.capture_rxbuf (j : Fin 3) (r : Byte) (s : State) :
    (s.capture j r).rxbuf =
      ⟨if j = 0 then r else s.rxbuf.byte0, if j = 1 then r else s.rxbuf.byte1, if j = 2 then r else s.rxbuf.byte2⟩ := by
  fin_cases j <;> rfl

/-! sampleReset -/

@[simp] theorem State.sampleReset_seqState (s : State) : s.sampleReset.seqState = s.seqState := rfl
@[simp] theorem State.sampleReset_cmd (s : State) : s.sampleReset.cmd = s.cmd := rfl
@[simp] theorem State.sampleReset_arg (s : State) : s.sampleReset.arg = s.arg := rfl
@[simp] theorem State.sampleReset_step (s : State) : s.sampleReset.step = s.step := rfl
@[simp] theorem State.sampleReset_rxbuf (s : State) : s.sampleReset.rxbuf = s.rxbuf := rfl
@[simp] theorem State.sampleReset_result (s : State) : s.sampleReset.result = s.result := rfl
@[simp] theorem State.sampleReset_err (s : State) : s.sampleReset.err = s.err := rfl
@[simp] theorem State.sampleReset_errStep (s : State) : s.sampleReset.errStep = s.errStep := rfl
@[simp] theorem State.sampleReset_done (s : State) : s.sampleReset.done = s.done := rfl
@[simp] theorem State.sampleReset_failInfo (s : State) : s.sampleReset.failInfo = s.failInfo := rfl
@[simp] theorem State.sampleReset_trace (s : State) : s.sampleReset.trace = s.trace := rfl
@[simp] theorem State.sampleReset_port (s : State) : s.sampleReset.port = s.port := rfl
@[simp] theorem State.sampleReset_answers (s : State) : s.sampleReset.answers = s.answers := rfl
@[simp] theorem State.sampleReset_draws (s : State) : s.sampleReset.draws = s.draws := rfl
@[simp] theorem State.sampleReset_resetLine (s : State) : s.sampleReset.resetLine = s.resetLine.tail := rfl
@[simp] theorem State.sampleReset_inject (s : State) : s.sampleReset.inject = s.inject := rfl

/-! load -/

@[simp] theorem State.load_seqState (ws : List CommandWord) (s : State) : (s.load ws).seqState = s.seqState := rfl
@[simp] theorem State.load_cmd (ws : List CommandWord) (s : State) : (s.load ws).cmd = s.cmd := rfl
@[simp] theorem State.load_arg (ws : List CommandWord) (s : State) : (s.load ws).arg = s.arg := rfl
@[simp] theorem State.load_step (ws : List CommandWord) (s : State) : (s.load ws).step = s.step := rfl
@[simp] theorem State.load_rxbuf (ws : List CommandWord) (s : State) : (s.load ws).rxbuf = s.rxbuf := rfl
@[simp] theorem State.load_result (ws : List CommandWord) (s : State) : (s.load ws).result = s.result := rfl
@[simp] theorem State.load_err (ws : List CommandWord) (s : State) : (s.load ws).err = s.err := rfl
@[simp] theorem State.load_errStep (ws : List CommandWord) (s : State) : (s.load ws).errStep = s.errStep := rfl
@[simp] theorem State.load_done (ws : List CommandWord) (s : State) : (s.load ws).done = s.done := rfl
@[simp] theorem State.load_failInfo (ws : List CommandWord) (s : State) : (s.load ws).failInfo = s.failInfo := rfl
@[simp] theorem State.load_trace (ws : List CommandWord) (s : State) : (s.load ws).trace = s.trace := rfl
@[simp] theorem State.load_port (ws : List CommandWord) (s : State) : (s.load ws).port = s.port ++ ws := rfl
@[simp] theorem State.load_answers (ws : List CommandWord) (s : State) : (s.load ws).answers = s.answers := rfl
@[simp] theorem State.load_draws (ws : List CommandWord) (s : State) : (s.load ws).draws = s.draws := rfl
@[simp] theorem State.load_resetLine (ws : List CommandWord) (s : State) : (s.load ws).resetLine = s.resetLine := rfl
@[simp] theorem State.load_inject (ws : List CommandWord) (s : State) : (s.load ws).inject = s.inject := rfl

/-! raiseTransportFailure -/

@[simp] theorem raiseTransportFailure_seqState (k : BitVec 4) (info : FailInfo) (s : State) : (raiseTransportFailure k info s).seqState = .idle := rfl
@[simp] theorem raiseTransportFailure_cmd (k : BitVec 4) (info : FailInfo) (s : State) : (raiseTransportFailure k info s).cmd = s.cmd := rfl
@[simp] theorem raiseTransportFailure_arg (k : BitVec 4) (info : FailInfo) (s : State) : (raiseTransportFailure k info s).arg = s.arg := rfl
@[simp] theorem raiseTransportFailure_step (k : BitVec 4) (info : FailInfo) (s : State) : (raiseTransportFailure k info s).step = s.step := rfl
@[simp] theorem raiseTransportFailure_rxbuf (k : BitVec 4) (info : FailInfo) (s : State) : (raiseTransportFailure k info s).rxbuf = s.rxbuf := rfl
@[simp] theorem raiseTransportFailure_result (k : BitVec 4) (info : FailInfo) (s : State) : (raiseTransportFailure k info s).result = s.result := rfl
@[simp] theorem raiseTransportFailure_err (k : BitVec 4) (info : FailInfo) (s : State) : (raiseTransportFailure k info s).err = true := rfl
@[simp] theorem raiseTransportFailure_errStep (k : BitVec 4) (info : FailInfo) (s : State) : (raiseTransportFailure k info s).errStep = k := rfl
@[simp] theorem raiseTransportFailure_done (k : BitVec 4) (info : FailInfo) (s : State) : (raiseTransportFailure k info s).done = true := rfl
@[simp] theorem raiseTransportFailure_failInfo (k : BitVec 4) (info : FailInfo) (s : State) : (raiseTransportFailure k info s).failInfo = info := rfl
@[simp] theorem raiseTransportFailure_trace (k : BitVec 4) (info : FailInfo) (s : State) : (raiseTransportFailure k info s).trace = s.trace := rfl
@[simp] theorem raiseTransportFailure_port (k : BitVec 4) (info : FailInfo) (s : State) : (raiseTransportFailure k info s).port = s.port := rfl
@[simp] theorem raiseTransportFailure_answers (k : BitVec 4) (info : FailInfo) (s : State) : (raiseTransportFailure k info s).answers = s.answers := rfl
@[simp] theorem raiseTransportFailure_draws (k : BitVec 4) (info : FailInfo) (s : State) : (raiseTransportFailure k info s).draws = s.draws := rfl
@[simp] theorem raiseTransportFailure_resetLine (k : BitVec 4) (info : FailInfo) (s : State) : (raiseTransportFailure k info s).resetLine = s.resetLine := rfl
@[simp] theorem raiseTransportFailure_inject (k : BitVec 4) (info : FailInfo) (s : State) : (raiseTransportFailure k info s).inject = none := rfl

/-! accept -/

@[simp] theorem accept_seqState (c : Code) (arg : Arg) (s : State) : (accept c arg s).seqState = .busy := rfl
@[simp] theorem accept_cmd (c : Code) (arg : Arg) (s : State) : (accept c arg s).cmd = c := rfl
@[simp] theorem accept_arg (c : Code) (arg : Arg) (s : State) : (accept c arg s).arg = arg := rfl
@[simp] theorem accept_step (c : Code) (arg : Arg) (s : State) : (accept c arg s).step = 0 := rfl
@[simp] theorem accept_rxbuf (c : Code) (arg : Arg) (s : State) : (accept c arg s).rxbuf = s.rxbuf := rfl
@[simp] theorem accept_result (c : Code) (arg : Arg) (s : State) : (accept c arg s).result = s.result := rfl
@[simp] theorem accept_err (c : Code) (arg : Arg) (s : State) : (accept c arg s).err = false := rfl
@[simp] theorem accept_errStep (c : Code) (arg : Arg) (s : State) : (accept c arg s).errStep = 0 := rfl
@[simp] theorem accept_done (c : Code) (arg : Arg) (s : State) : (accept c arg s).done = false := rfl
@[simp] theorem accept_failInfo (c : Code) (arg : Arg) (s : State) : (accept c arg s).failInfo = s.failInfo := rfl
@[simp] theorem accept_trace (c : Code) (arg : Arg) (s : State) : (accept c arg s).trace = s.trace := rfl
@[simp] theorem accept_port (c : Code) (arg : Arg) (s : State) : (accept c arg s).port = s.port := rfl
@[simp] theorem accept_answers (c : Code) (arg : Arg) (s : State) : (accept c arg s).answers = s.answers := rfl
@[simp] theorem accept_draws (c : Code) (arg : Arg) (s : State) : (accept c arg s).draws = s.draws := rfl
@[simp] theorem accept_resetLine (c : Code) (arg : Arg) (s : State) : (accept c arg s).resetLine = s.resetLine := rfl
@[simp] theorem accept_inject (c : Code) (arg : Arg) (s : State) : (accept c arg s).inject = none := rfl

/-! completeWrite -/

@[simp] theorem completeWrite_seqState (s : State) : (completeWrite s).seqState = .idle := rfl
@[simp] theorem completeWrite_cmd (s : State) : (completeWrite s).cmd = s.cmd := rfl
@[simp] theorem completeWrite_arg (s : State) : (completeWrite s).arg = s.arg := rfl
@[simp] theorem completeWrite_step (s : State) : (completeWrite s).step = s.step := rfl
@[simp] theorem completeWrite_rxbuf (s : State) : (completeWrite s).rxbuf = s.rxbuf := rfl
@[simp] theorem completeWrite_result (s : State) : (completeWrite s).result = s.result := rfl
@[simp] theorem completeWrite_err (s : State) : (completeWrite s).err = s.err := rfl
@[simp] theorem completeWrite_errStep (s : State) : (completeWrite s).errStep = s.errStep := rfl
@[simp] theorem completeWrite_done (s : State) : (completeWrite s).done = true := rfl
@[simp] theorem completeWrite_failInfo (s : State) : (completeWrite s).failInfo = s.failInfo := rfl
@[simp] theorem completeWrite_trace (s : State) : (completeWrite s).trace = s.trace := rfl
@[simp] theorem completeWrite_port (s : State) : (completeWrite s).port = s.port := rfl
@[simp] theorem completeWrite_answers (s : State) : (completeWrite s).answers = s.answers := rfl
@[simp] theorem completeWrite_draws (s : State) : (completeWrite s).draws = s.draws := rfl
@[simp] theorem completeWrite_resetLine (s : State) : (completeWrite s).resetLine = s.resetLine := rfl
@[simp] theorem completeWrite_inject (s : State) : (completeWrite s).inject = s.inject := rfl

/-! completeRead -/

@[simp] theorem completeRead_seqState (s : State) : (completeRead s).seqState = .idle := rfl
@[simp] theorem completeRead_cmd (s : State) : (completeRead s).cmd = s.cmd := rfl
@[simp] theorem completeRead_arg (s : State) : (completeRead s).arg = s.arg := rfl
@[simp] theorem completeRead_step (s : State) : (completeRead s).step = s.step := rfl
@[simp] theorem completeRead_rxbuf (s : State) : (completeRead s).rxbuf = s.rxbuf := rfl
@[simp] theorem completeRead_result (s : State) : (completeRead s).result = fdec s.rxbuf := rfl
@[simp] theorem completeRead_err (s : State) : (completeRead s).err = s.err := rfl
@[simp] theorem completeRead_errStep (s : State) : (completeRead s).errStep = s.errStep := rfl
@[simp] theorem completeRead_done (s : State) : (completeRead s).done = true := rfl
@[simp] theorem completeRead_failInfo (s : State) : (completeRead s).failInfo = s.failInfo := rfl
@[simp] theorem completeRead_trace (s : State) : (completeRead s).trace = s.trace := rfl
@[simp] theorem completeRead_port (s : State) : (completeRead s).port = s.port := rfl
@[simp] theorem completeRead_answers (s : State) : (completeRead s).answers = s.answers := rfl
@[simp] theorem completeRead_draws (s : State) : (completeRead s).draws = s.draws := rfl
@[simp] theorem completeRead_resetLine (s : State) : (completeRead s).resetLine = s.resetLine := rfl
@[simp] theorem completeRead_inject (s : State) : (completeRead s).inject = s.inject := rfl

/-! blockReset -/

@[simp] theorem blockReset_seqState (s : State) : (blockReset s).seqState = .idle := rfl
@[simp] theorem blockReset_cmd (s : State) : (blockReset s).cmd = 0 := rfl
@[simp] theorem blockReset_arg (s : State) : (blockReset s).arg = 0 := rfl
@[simp] theorem blockReset_step (s : State) : (blockReset s).step = 0 := rfl
@[simp] theorem blockReset_rxbuf (s : State) : (blockReset s).rxbuf = ⟨0, 0, 0⟩ := rfl
@[simp] theorem blockReset_result (s : State) : (blockReset s).result = 0 := rfl
@[simp] theorem blockReset_err (s : State) : (blockReset s).err = false := rfl
@[simp] theorem blockReset_errStep (s : State) : (blockReset s).errStep = 0 := rfl
@[simp] theorem blockReset_done (s : State) : (blockReset s).done = false := rfl
@[simp] theorem blockReset_failInfo (s : State) : (blockReset s).failInfo = [] := rfl
@[simp] theorem blockReset_trace (s : State) : (blockReset s).trace = s.trace := rfl
@[simp] theorem blockReset_port (s : State) : (blockReset s).port = s.port := rfl
@[simp] theorem blockReset_answers (s : State) : (blockReset s).answers = s.answers := rfl
@[simp] theorem blockReset_draws (s : State) : (blockReset s).draws = s.draws := rfl
@[simp] theorem blockReset_resetLine (s : State) : (blockReset s).resetLine = s.resetLine := rfl
@[simp] theorem blockReset_inject (s : State) : (blockReset s).inject = none := rfl

end Sys2Proof.Machine
end

