-- ==== Sys2Proof/Laws/Ops.lean ====
section
/-! SUPPORT. One lemma per shared operation, saying everything it can do. -/

namespace Sys2Proof.Machine

/-- The next answer is the first one of the sequence of answers. -/
theorem State.nextAnswer_eq_answerAt (s : State) : s.nextAnswer = s.answerAt 0 := by
  unfold State.nextAnswer State.answerAt
  cases s.answers <;> rfl

/-- Once an answer is taken, the sequence goes on with the one after it. -/
theorem State.answerAt_of_tail {s t : State} (ha : t.answers = s.answers.tail) (hd : t.draws = s.draws + 1) (k : Nat) :
    t.answerAt k = s.answerAt (k + 1) := by
  unfold State.answerAt
  rw [ha, hd, List.getElem?_tail, Nat.add_assoc, Nat.add_comm 1 k]

/-- The sequence of answers depends on two fields only. -/
theorem State.answerAt_congr {s t : State} (ha : t.answers = s.answers) (hd : t.draws = s.draws) (k : Nat) : t.answerAt k = s.answerAt k := by
  unfold State.answerAt
  rw [ha, hd]

/-- The exception and the operations around it as plain record updates. -/
theorem accept_eq (c : Code) (arg : Arg) (s : State) :
    accept c arg s =
      { s with cmd := c, arg := arg, step := 0, err := false, errStep := 0, done := false, seqState := .busy, inject := none } := rfl

theorem raiseTransportFailure_eq (k : BitVec 4) (info : FailInfo) (s : State) :
    raiseTransportFailure k info s =
      { s with err := true, errStep := k, done := true, failInfo := info, seqState := .idle, inject := none } := rfl

/-- The byte an event that transfers sends, and what becomes of the byte received. -/
def Event.exchange : Event → Option (Byte × (Byte → State → State))
  | .sel => none
  | .desel => none
  | .tx b => some (b, fun _ t => t)
  | .cap j => some (dummyByte, State.capture j)

/-- The trace entry of an event that transfers nothing. -/
def Event.line : Event → TraceEvent
  | .desel => .desel
  | .sel => .sel
  | .tx b => .tx b default
  | .cap _ => .tx dummyByte default

/-- What issuing an event does: a chip-select request is recorded and the step advances; a transfer that is answered is recorded, its byte kept
or not, and the step advances; a transfer that fails is recorded and the exception is taken at this step. -/
theorem issue_cases (e : Event) (s : State) :
    (e.exchange = none ∧ issue e s = (s.record e.line).advance ∧ e.line.request = e.request) ∨
    (∃ b keep r, e.exchange = some (b, keep) ∧ e.request = .xfer b ∧ s.answerAt 0 = .byte r ∧
      issue e s = (keep r (s.takeAnswer.record (.tx b (.byte r)))).advance) ∨
    (∃ b keep info, e.exchange = some (b, keep) ∧ e.request = .xfer b ∧ s.answerAt 0 = .fail info ∧
      issue e s = raiseTransportFailure s.step info (s.takeAnswer.record (.tx b (.fail info)))) := by
  rw [← State.nextAnswer_eq_answerAt]
  cases e with
  | sel => exact .inl ⟨rfl, rfl, rfl⟩
  | desel => exact .inl ⟨rfl, rfl, rfl⟩
  | tx b =>
    cases h : s.nextAnswer with
    | byte r => exact .inr (.inl ⟨b, _, r, rfl, rfl, rfl, by simp only [issue, transfer, h]⟩)
    | fail info => exact .inr (.inr ⟨b, _, info, rfl, rfl, rfl, by simp only [issue, transfer, h]⟩)
  | cap j =>
    cases h : s.nextAnswer with
    | byte r => exact .inr (.inl ⟨dummyByte, _, r, rfl, rfl, rfl, by simp only [issue, transfer, h]⟩)
    | fail info => exact .inr (.inr ⟨dummyByte, _, info, rfl, rfl, rfl, by simp only [issue, transfer, h]⟩)

/-- Keeping a received byte changes RXBUF only. -/
theorem exchange_keep {e : Event} {b : Byte} {keep : Byte → State → State} (h : e.exchange = some (b, keep)) (r : Byte) (t : State) :
    keep r t = { t with rxbuf := (keep r t).rxbuf } := by
  cases e with
  | sel => cases h
  | desel => cases h
  | tx b => cases h; rfl
  | cap j => cases h; fin_cases j <;> rfl

/-- What no event changes. -/
theorem issue_frame (e : Event) (s : State) :
    (issue e s).cmd = s.cmd ∧ (issue e s).arg = s.arg ∧ (issue e s).result = s.result ∧ (issue e s).port = s.port ∧
      (issue e s).resetLine = s.resetLine := by
  cases e <;> simp only [issue, transfer] <;> (try split) <;> simp

/-- A command's meaning on the idle block. -/
theorem runCommand_idle {c : Code} {arg : Arg} {sc : List Event} {fin : State → State} {s : State} (h : s.seqState = .idle) :
    runCommand c arg sc fin s = .next (accept c arg s) := by
  simp only [runCommand, h]

/-- A running command's meaning where an event is due. -/
theorem runCommand_event {sc : List Event} {fin : State → State} {s : State} {e : Event} (h : s.seqState = .busy)
    (he : sc[s.step.toNat]? = some e) : runCommand s.cmd s.arg sc fin s = .next (issue e s) := by
  simp only [runCommand, h, he, and_self, if_true]

/-- A running command's meaning at the end of its script. -/
theorem runCommand_end {sc : List Event} {fin : State → State} {s : State} (h : s.seqState = .busy) (he : s.step.toNat = sc.length) :
    runCommand s.cmd s.arg sc fin s = .next (fin s) := by
  simp [runCommand, h, he]

/-- A running command's meaning past the end of its script. -/
theorem runCommand_past {sc : List Event} {fin : State → State} {s : State} (h : s.seqState = .busy) (he : sc.length < s.step.toNat) :
    runCommand s.cmd s.arg sc fin s = .fault .noRuleApplies := by
  have h2 : s.step.toNat ≠ sc.length := by omega
  simp [runCommand, h, List.getElem?_eq_none (Nat.le_of_lt he), h2]

/-- A command's meaning while another one runs. -/
theorem runCommand_held {c : Code} {arg : Arg} {sc : List Event} {fin : State → State} {s : State} (h : s.seqState = .busy)
    (hne : ¬ (s.cmd = c ∧ s.arg = arg)) : runCommand c arg sc fin s = .next s := by
  simp only [runCommand, h, if_neg hne]

/-- A frame's meaning where an event is due. -/
theorem sendFrame_event {es : List Event} {s : State} {e : Event} (h : s.seqState = .busy) (hl : s.step.toNat < scriptLength s.cmd s.arg)
    (he : es[s.step.toNat % 5]? = some e) : sendFrame es s = .next (issue e s) := by
  simp only [sendFrame, h, hl, he, if_true]

/-- A frame's meaning while the block is idle or no event is due. -/
theorem sendFrame_nothing {es : List Event} {s : State} (h : s.seqState = .idle ∨ scriptLength s.cmd s.arg ≤ s.step.toNat) :
    sendFrame es s = .next s := by
  unfold sendFrame
  rcases h with h | h
  · simp only [h]
  · split
    · rfl
    · rw [if_neg (by omega)]

/-- Everything a command's meaning can answer. -/
theorem runCommand_cases (c : Code) (arg : Arg) (sc : List Event) (fin : State → State) (s : State) :
    (s.seqState = .idle ∧ runCommand c arg sc fin s = .next (accept c arg s)) ∨
    (s.seqState = .busy ∧ s.cmd = c ∧ s.arg = arg ∧ ∃ e, sc[s.step.toNat]? = some e ∧ runCommand c arg sc fin s = .next (issue e s)) ∨
    (s.seqState = .busy ∧ s.cmd = c ∧ s.arg = arg ∧ s.step.toNat = sc.length ∧ runCommand c arg sc fin s = .next (fin s)) ∨
    (s.seqState = .busy ∧ s.cmd = c ∧ s.arg = arg ∧ sc.length < s.step.toNat ∧ runCommand c arg sc fin s = .fault .noRuleApplies) ∨
    (s.seqState = .busy ∧ ¬ (s.cmd = c ∧ s.arg = arg) ∧ runCommand c arg sc fin s = .next s) := by
  cases h : s.seqState with
  | idle => exact .inl ⟨rfl, runCommand_idle h⟩
  | busy =>
    by_cases hc : s.cmd = c ∧ s.arg = arg
    · obtain ⟨rfl, rfl⟩ := hc
      rcases Nat.lt_trichotomy s.step.toNat sc.length with hl | hl | hl
      · exact .inr (.inl ⟨rfl, rfl, rfl, _, List.getElem?_eq_getElem hl, runCommand_event h (List.getElem?_eq_getElem hl)⟩)
      · exact .inr (.inr (.inl ⟨rfl, rfl, rfl, hl, runCommand_end h hl⟩))
      · exact .inr (.inr (.inr (.inl ⟨rfl, rfl, rfl, hl, runCommand_past h hl⟩)))
    · exact .inr (.inr (.inr (.inr ⟨rfl, hc, runCommand_held h hc⟩)))

end Sys2Proof.Machine
end

