-- ==== Sys2Proof/Laws/PerInstr.lean ====
section
/-! SUPPORT. Statements about every instruction as syntax, one lemma per constructor. -/

namespace Sys2Proof.Laws.TableRow

open Sys2Proof Sys2Proof.Machine

/-- The encoder's word of an instruction has the width of its row of spec/opcode_table.json and matches the row under its mask. -/
def Statement (i : Instr) : Prop :=
  (encode i).width = (tableRow i).1 ∧ (encode i).value &&& (tableRow i).2.1 = (tableRow i).2.2

/-- A 36-bit word under the code's mask. -/
theorem cmd_matches (c : Code) (arg : Arg) : (CodeWord.cmd (c ++ arg)).value &&& 0xF00000000 = c.toNat <<< 32 := and_mask_of_append c arg

/-- A 24-bit word under the kind's mask. -/
theorem frame_matches (n : BitVec 4) (d : Data) : (CodeWord.frame (n ++ d)).value &&& 0xF00000 = n.toNat <<< 20 := and_mask_of_append n d

theorem applyConfig (arg : Arg) : Statement (.applyConfig arg) := ⟨rfl, cmd_matches 0x1 arg⟩
theorem readConfig (arg : Arg) : Statement (.readConfig arg) := ⟨rfl, cmd_matches 0x2 arg⟩
theorem triggerUpdate (arg : Arg) : Statement (.triggerUpdate arg) := ⟨rfl, cmd_matches 0x3 arg⟩
theorem triggerClear (arg : Arg) : Statement (.triggerClear arg) := ⟨rfl, cmd_matches 0x4 arg⟩
theorem triggerReset (arg : Arg) : Statement (.triggerReset arg) := ⟨rfl, cmd_matches 0x5 arg⟩
theorem setOutput (arg : Arg) : Statement (.setOutput arg) := ⟨rfl, cmd_matches 0x6 arg⟩
theorem getOutput (arg : Arg) : Statement (.getOutput arg) := ⟨rfl, cmd_matches 0x7 arg⟩
theorem setClear (arg : Arg) : Statement (.setClear arg) := ⟨rfl, cmd_matches 0x8 arg⟩
theorem getClear (arg : Arg) : Statement (.getClear arg) := ⟨rfl, cmd_matches 0x9 arg⟩
theorem wDac (d : Data) : Statement (.wDac d) := ⟨rfl, frame_matches 0x1 d⟩
theorem wCtrl (d : Data) : Statement (.wCtrl d) := ⟨rfl, frame_matches 0x2 d⟩
theorem wClr (d : Data) : Statement (.wClr d) := ⟨rfl, frame_matches 0x3 d⟩
theorem wSwctrl (d : Data) : Statement (.wSwctrl d) := ⟨rfl, frame_matches 0x4 d⟩
theorem rDac : Statement .rDac := ⟨rfl, rfl⟩
theorem rCtrl : Statement .rCtrl := ⟨rfl, rfl⟩
theorem rClr : Statement .rClr := ⟨rfl, rfl⟩
theorem dummy : Statement .dummy := ⟨rfl, rfl⟩

end Sys2Proof.Laws.TableRow
end

