-- ==== Sys2Proof/Laws/Step.lean ====
section
/-! SUPPORT. Everything a step can do. -/

namespace Sys2Proof.Machine

/-- A frame is due only inside the running script. -/
theorem lt_of_dueFrame {s : State} {v : FrameWord} (h : s.dueFrame = some v) : s.step.toNat < scriptLength s.cmd s.arg := by
  have h3 : s.step.toNat / 5 * 5 + 3 < ((script s.cmd s.arg).getD []).length := by
    by_contra hn
    simp [State.dueFrame, List.getElem?_eq_none (Nat.le_of_not_lt hn)] at h
  cases hs : script s.cmd s.arg with
  | none => simp [hs] at h3
  | some sc =>
    have hl := script_length hs
    rw [hs, Option.getD_some] at h3
    rw [hl.2.2]
    omega

/-- What may be issued is the due frame, or an allowed control word in a control word's place. -/
theorem mayIssue_cases {s : State} {w : FrameWord} (h : s.mayIssue w = true) :
    ∃ v, s.dueFrame = some v ∧
      (w = v ∨ (v.extractLsb' 20 4 = 2 ∧ w.extractLsb' 20 4 = 2 ∧ controlWordAllowed (w.extractLsb' 0 20) = true)) := by
  unfold State.mayIssue at h
  split at h
  · cases h
  · exact ⟨_, ‹_›, of_decide_eq_true h⟩

/-- A placed frame is issued only inside the running script. -/
theorem lt_of_mayIssue {s : State} {w : FrameWord} (h : s.mayIssue w = true) : s.step.toNat < scriptLength s.cmd s.arg := by
  obtain ⟨v, hv, _⟩ := mayIssue_cases h
  exact lt_of_dueFrame hv

/-- The legal LINCOMP codes are the five that have a selector (30_encoding.md R85). -/
theorem lcinv_isSome_iff (c : BitVec 4) : (lcinv c).isSome = true ↔ c ∈ [0b0000#4, 0b1001#4, 0b1010#4, 0b1011#4, 0b1100#4] := by
  revert c
  decide

/-- `mayIssue` says what `PlacedIsDue` says. -/
theorem mayIssue_iff {s : State} {w : FrameWord} : s.mayIssue w = true ↔ s.PlacedIsDue w := by
  constructor
  · intro h
    obtain ⟨v, hv, rfl | ⟨h1, h2, h3⟩⟩ := mayIssue_cases h
    · exact .inl hv
    · have hd := of_decide_eq_true h3
      refine .inr ⟨w.extractLsb' 0 20, v.extractLsb' 0 20, ?_, ?_, hd.1, hd.2.1, (lcinv_isSome_iff _).1 hd.2.2⟩
      · exact (frameWord_fields w).symm.trans (by rw [h2]; rfl)
      · exact hv.trans (congrArg some ((frameWord_fields v).symm.trans (by rw [h1]; rfl)))
  · rintro (h | ⟨d, e, rfl, h, h0, h1, h2⟩)
    · simp [State.mayIssue, h]
    · unfold State.mayIssue
      rw [h]
      have hc : controlWordAllowed d = true := decide_eq_true ⟨h0, h1, (lcinv_isSome_iff _).2 h2⟩
      exact decide_eq_true (.inr ⟨kind_of_append _ _, kind_of_append _ _, by rw [data_of_append]; exact hc⟩)

/-- Everything fetching can find. -/
theorem fetch_cases (s : State) :
    (s.seqState = .idle ∧ s.port = [] ∧ fetch s = .nothing) ∨
    (∃ w rest i, s.seqState = .idle ∧ s.port = w :: rest ∧ decode (.cmd w) = .ok i ∧ fetch s = .run i { s with port := rest }) ∨
    (∃ w rest e, s.seqState = .idle ∧ s.port = w :: rest ∧ decode (.cmd w) = .error e ∧ fetch s = .refuse (refusalOf e)) ∨
    (∃ i, s.seqState = .busy ∧ s.inject = none ∧ decode (.cmd (s.cmd ++ s.arg)) = .ok i ∧ fetch s = .run i s) ∨
    (∃ e, s.seqState = .busy ∧ s.inject = none ∧ decode (.cmd (s.cmd ++ s.arg)) = .error e ∧ fetch s = .refuse (refusalOf e)) ∨
    (∃ w i, s.seqState = .busy ∧ s.inject = some w ∧ decode (.frame w) = .ok i ∧ s.mayIssue w = true ∧
      fetch s = .run i { s with inject := if s.step.toNat % 5 = 4 then none else some w }) ∨
    (∃ w, s.seqState = .busy ∧ s.inject = some w ∧ (∀ i, decode (.frame w) = .ok i → s.mayIssue w = false) ∧
      fetch s = .refuse (.reservedFrame w)) := by
  cases hs : s.seqState with
  | idle =>
    cases hp : s.port with
    | nil => exact .inl ⟨rfl, rfl, by simp [fetch, fetchPort, hs, hp]⟩
    | cons w rest =>
      cases hd : decode (.cmd w) with
      | ok i => exact .inr (.inl ⟨w, rest, i, rfl, rfl, hd, by simp [fetch, fetchPort, hs, hp, hd]⟩)
      | error e => exact .inr (.inr (.inl ⟨w, rest, e, rfl, rfl, hd, by simp [fetch, fetchPort, hs, hp, hd]⟩))
  | busy =>
    cases hi : s.inject with
    | none =>
      cases hd : decode (.cmd (s.cmd ++ s.arg)) with
      | ok i => exact .inr (.inr (.inr (.inl ⟨i, rfl, rfl, rfl, by simp [fetch, fetchLatched, hs, hi, hd]⟩)))
      | error e => exact .inr (.inr (.inr (.inr (.inl ⟨e, rfl, rfl, rfl, by simp [fetch, fetchLatched, hs, hi, hd]⟩))))
    | some w =>
      cases hd : decode (.frame w) with
      | ok i =>
        cases hm : s.mayIssue w with
        | true => exact .inr (.inr (.inr (.inr (.inr (.inl ⟨w, i, rfl, rfl, hd, hm, by simp [fetch, fetchPlaced, hs, hi, hd, hm]⟩)))))
        | false =>
          exact .inr (.inr (.inr (.inr (.inr (.inr ⟨w, rfl, rfl, fun j hj => by rw [hd] at hj; cases hj; exact hm,
            by simp [fetch, fetchPlaced, hs, hi, hd, hm]⟩)))))
      | error e =>
        refine .inr (.inr (.inr (.inr (.inr (.inr ⟨w, rfl, rfl, fun j hj => (by rw [hd] at hj; cases hj), ?_⟩)))))
        rw [error_of_decodeFrame hd] at hd
        simp [fetch, fetchPlaced, hs, hi, hd, refusalOf]

/-- A step with the reset input asserted. -/
theorem step_of_reset {s : State} (h : s.resetAsserted = true) : step s = .next (blockReset s.sampleReset) := by
  simp only [step, h, if_true]

/-- A step with the reset input not asserted. -/
theorem step_of_fetch {s : State} (h : s.resetAsserted = false) :
    step s = match fetch s.sampleReset with
      | .nothing => .next s.sampleReset
      | .run i t => exec i t
      | .refuse r => .refused r :=
  if_neg (by simp [h])

/-- Everything a step can do where the reset input is not asserted and it answers a next state: the idle block waits, or accepts a command;
the running command issues its next event, or completes; a placed frame issues its next event. -/
theorem step_cases {s t : State} (hr : s.resetAsserted = false) (h : step s = .next t) :
    (s.seqState = .idle ∧ s.port = [] ∧ t = s.sampleReset) ∨
    (∃ c arg rest, s.seqState = .idle ∧ s.port = (c ++ arg) :: rest ∧ (script c arg).isSome = true ∧
      t = accept c arg { s.sampleReset with port := rest }) ∨
    (∃ sc e, s.seqState = .busy ∧ s.inject = none ∧ script s.cmd s.arg = some sc ∧ sc[s.step.toNat]? = some e ∧ t = issue e s.sampleReset) ∨
    (∃ sc, s.seqState = .busy ∧ s.inject = none ∧ script s.cmd s.arg = some sc ∧ s.step.toNat = sc.length ∧
      t = completeFor s.cmd s.sampleReset) ∨
    (∃ w f e, s.seqState = .busy ∧ s.inject = some w ∧ decodeFrame w = .ok f ∧ s.mayIssue w = true ∧
      s.step.toNat < scriptLength s.cmd s.arg ∧
      (frameEvents f)[s.step.toNat % 5]? = some e ∧
      t = issue e { s.sampleReset with inject := if s.step.toNat % 5 = 4 then none else some w }) := by
  rw [step_of_fetch hr] at h
  rcases fetch_cases s.sampleReset with ⟨h1, h2, h3⟩ | ⟨w, rest, i, h1, h2, h3, h4⟩ | ⟨w, rest, e, h1, h2, h3, h4⟩ | ⟨i, h1, h2, h3, h4⟩ |
    ⟨e, h1, h2, h3, h4⟩ | ⟨w, i, h1, h2, h3, hm, h4⟩ | ⟨w, h1, h2, h3, h4⟩
  · rw [h3] at h
    cases h
    exact .inl ⟨h1, h2, rfl⟩
  · rw [h4] at h
    rw [← commandWord_fields w] at h2 h3
    rw [decode, decodeCommand_append] at h3
    have hc := commandOfCode_eq_ok h3
    obtain ⟨sc, hsc⟩ := script_of_command hc
    have hx : exec i { s.sampleReset with port := rest } = .next t := h
    rw [exec_of_command hc hsc] at hx
    rw [show runCommand _ _ sc _ _ = _ from runCommand_idle (s := { s.sampleReset with port := rest }) h1] at hx
    cases hx
    exact .inr (.inl ⟨_, _, rest, h1, h2, by rw [hsc]; rfl, rfl⟩)
  · rw [h4] at h
    cases h
  · rw [h4] at h
    rw [decode, decodeCommand_append] at h3
    have hc := commandOfCode_eq_ok h3
    obtain ⟨sc, hsc⟩ := script_of_command hc
    have hx : exec i s.sampleReset = .next t := h
    rw [exec_of_command hc hsc] at hx
    rcases runCommand_cases s.sampleReset.cmd s.sampleReset.arg sc (completeFor s.sampleReset.cmd) s.sampleReset with
      ⟨a, _⟩ | ⟨_, _, _, e, d, f⟩ | ⟨_, _, _, d, f⟩ | ⟨_, _, _, _, f⟩ | ⟨_, b, _⟩
    · rw [h1] at a; cases a
    · rw [f] at hx; cases hx
      exact .inr (.inr (.inl ⟨sc, e, h1, h2, hsc, d, rfl⟩))
    · rw [f] at hx; cases hx
      exact .inr (.inr (.inr (.inl ⟨sc, h1, h2, hsc, d, rfl⟩)))
    · rw [f] at hx; cases hx
    · exact absurd ⟨rfl, rfl⟩ b
  · rw [h4] at h
    cases h
  · rw [h4] at h
    have hf := command?_of_decodeFrame h3
    have hx : exec i { s.sampleReset with inject := if s.step.toNat % 5 = 4 then none else some w } = .next t := h
    rw [exec_of_frame hf] at hx
    have hl : s.step.toNat < scriptLength s.cmd s.arg := lt_of_mayIssue hm
    have he : s.step.toNat % 5 < (frameEvents i).length := by
      rw [length_frameEvents hf]
      exact Nat.mod_lt _ (by omega)
    rw [show sendFrame (frameEvents i) { s.sampleReset with inject := if s.step.toNat % 5 = 4 then none else some w } = _ from
      sendFrame_event h1 hl (List.getElem?_eq_getElem he)] at hx
    cases hx
    exact .inr (.inr (.inr (.inr ⟨w, i, _, h1, h2, h3, hm, hl, List.getElem?_eq_getElem he, rfl⟩)))
  · rw [h4] at h
    cases h

/-- The host's run, one step at a time, of any machine. -/
theorem run_of_next (M : Host.Core) (n : Nat) {s t : M.State} (h : M.step s = .next t) : M.run (n + 1) s = M.run n t := by
  rw [Host.Core.run, h]

theorem run_of_fault (M : Host.Core) (n : Nat) {s : M.State} {f : M.Fault} (h : M.step s = .fault f) : M.run (n + 1) s = .fault f := by
  rw [Host.Core.run, h]

theorem run_of_refused (M : Host.Core) (n : Nat) {s : M.State} {r : M.Refusal} (h : M.step s = .refused r) :
    M.run (n + 1) s = .refused r := by
  rw [Host.Core.run, h]

/-- The host's run of this machine is `stepTimes`. -/
theorem core_run_eq_stepTimes (n : Nat) (s : State) : Host.Core.run Sys2Proof.core n s = stepTimes n s := by
  induction n generalizing s with
  | zero => rfl
  | succ n ih =>
    rw [stepTimes]
    cases h : step s with
    | next t => exact (run_of_next Sys2Proof.core n (t := t) h).trans (ih t)
    | fault f => exact run_of_fault Sys2Proof.core n (f := f) h
    | refused r => exact run_of_refused Sys2Proof.core n (r := r) h

end Sys2Proof.Machine
end

