-- ==== Sys2Proof/Tests/Slice0.lean ====
section
/-! SUPPORT. The model's own tests, their expected values taken from spec/ (the file and rule stand in each docstring), and a witness for the
hypotheses of each statement of Certificates/Slice0/Obligations.lean. -/

namespace Sys2Proof.Tests

open Sys2Proof.Machine

/-! ### Helpers -/

/-- Busy with the command word `{c, arg}`, at step `n`, with these answers to come. -/
def busyAt (c : Code) (arg : Arg) (n : BitVec 4) (answers : List XferAnswer) : State :=
  { State.reset with seqState := .busy, cmd := c, arg := arg, step := n, answers := answers }

/-- Idle, with these words on the command port. -/
def idleWith (ws : List CommandWord) : State := { State.reset with port := ws }

/-- The answers 0x10, 0x11, … -/
def byteOf (k : Nat) : Byte := BitVec.ofNat 8 (0x10 + k)

/-- Six bytes answered. -/
def sixBytes : List XferAnswer := [.byte 0x10, .byte 0x11, .byte 0x12, .byte 0x13, .byte 0x14, .byte 0x15]

/-- Idle, with six bytes to be answered. -/
def idleSix : State := { State.reset with answers := sixBytes }

/-- The next state of an outcome. -/
def next? (o : Host.Outcome State Fault Refusal) : Option State :=
  match o with
  | .next t => some t
  | .fault _ => none
  | .refused _ => none

/-- The refusal of an outcome. -/
def refusal? (o : Host.Outcome State Fault Refusal) : Option Refusal :=
  match o with
  | .next _ => none
  | .fault _ => none
  | .refused r => some r

/-- The state one step later, the same state where the step stops. -/
def afterStep (s : State) : State := (next? (step s)).getD s

/-- The trace that one outcome leaves. -/
def traceOf (o : Host.Outcome State Fault Refusal) : Option (List TraceEvent) := (next? o).map State.trace

/-! ### WellFormed: ill-formed terms are refused -/

/-- A control word that CFGA never produces (30_encoding.md R84, R85). -/
theorem test_wellFormed_refuses_control_word : (Instr.wCtrl 0xFFFFF).wellFormed = false := by decide

/-- Two trigger bits at once (42_triggers.md R160). -/
theorem test_wellFormed_refuses_two_trigger_bits : (Instr.wSwctrl 0x00003).wellFormed = false := by decide

/-! ### Decoding, by words written out from 30_encoding.md R74, R80, R81 -/

theorem test_decode_applyConfig : decode (.cmd 0b000100000000000000000000000000000010) = .ok (.applyConfig 2) := by decide
theorem test_decode_readConfig : decode (.cmd 0b001000000000000000000000000000000000) = .ok (.readConfig 0) := by decide
theorem test_decode_triggerUpdate : decode (.cmd 0b001100000000000000000000000000000000) = .ok (.triggerUpdate 0) := by decide
theorem test_decode_triggerClear : decode (.cmd 0b010011011110101011011011111011101111) = .ok (.triggerClear 0xDEADBEEF) := by decide
theorem test_decode_triggerReset : decode (.cmd 0b010100000000000000000000000000000001) = .ok (.triggerReset 1) := by decide
theorem test_decode_setOutput : decode (.cmd 0b011000000000000010000000000000000000) = .ok (.setOutput 0x80000) := by decide
theorem test_decode_getOutput : decode (.cmd 0b011110000000000000000000000000000000) = .ok (.getOutput 0x80000000) := by decide
theorem test_decode_setClear : decode (.cmd 0b100000000000000000010010001101000101) = .ok (.setClear 0x12345) := by decide
theorem test_decode_getClear : decode (.cmd 0b100100000000000000000000000000000000) = .ok (.getClear 0) := by decide
theorem test_decode_wDac : decode (.frame 0b000110000000000000000001) = .ok (.wDac 0x80001) := by decide
theorem test_decode_wCtrl : decode (.frame 0b001000000000001010010010) = .ok (.wCtrl 0x00292) := by decide
theorem test_decode_wClr : decode (.frame 0b001110101011110011011110) = .ok (.wClr 0xABCDE) := by decide
theorem test_decode_wSwctrl : decode (.frame 0b010000000000000000000100) = .ok (.wSwctrl 0x00004) := by decide
theorem test_decode_rDac : decode (.frame 0b100100000000000000000000) = .ok .rDac := by decide
theorem test_decode_rCtrl : decode (.frame 0b101000000000000000000000) = .ok .rCtrl := by decide
theorem test_decode_rClr : decode (.frame 0b101100000000000000000000) = .ok .rClr := by decide
theorem test_decode_dummy : decode (.frame 0b000000000000000000000000) = .ok .dummy := by decide

/-- A read of address 4 is reserved (R82). -/
theorem test_decode_refuses_read_of_swctrl : decode (.frame 0xC00000) = .error (.reservedFrame 0xC00000) := by decide

/-- A frame is exactly three bytes, byte0 first (R70, R87). -/
theorem test_decodeFrameBytes :
    decodeFrameBytes [0x11, 0x23, 0x45] = .ok (.wDac 0x12345) ∧ decodeFrameBytes [0x11, 0x23] = .error (.frameLength 2) := by decide

/-- The opcode table's rows by their match words (spec/opcode_table.json), and no instruction past 36 bits. -/
theorem test_decodeTableWord :
    decodeTableWord 40 0x100000000 = some (.applyConfig 0) ∧ decodeTableWord 24 0x400000 = some (.wSwctrl 0) ∧
    decodeTableWord 24 0xA00000 = some .rCtrl ∧ decodeTableWord 40 0xA00000000 = none ∧ decodeTableWord 40 0x1100000000 = none := by decide

/-! ### The combinational units (95_test_vectors.md 2.2, 2.3, 2.5, 2.6) -/

theorem test_fenc :
    fenc 0 1 0xFFFFFFFF = ⟨0x1F, 0xFF, 0xFF⟩ ∧ fenc 0 1 0x80000 = ⟨0x18, 0x00, 0x00⟩ ∧ fenc 1 2 0xABCDE = ⟨0xAA, 0xBC, 0xDE⟩ := by decide

theorem test_fdec : fdec ⟨0x9A, 0xBC, 0xDE⟩ = 0xABCDE ∧ fdec ⟨0x10, 0x08, 0x00⟩ = 0x00800 := by decide

theorem test_cfga : cfga 4 = 0x00312 ∧ cfga 5 = 0x00012 ∧ cfga 0x00100001 = 0x00012 ∧ cfga 0xFFFFFFFF = 0x00012 := by decide

theorem test_cfgd :
    cfgd 0x0000C = { rsvdLo := 0, amp := 0, gclamp := 1, tri := 1, coding := 0, swdis := 0, lincomp := 0, rsvdHi := 0, sel := some 0 } ∧
    cfgd 0xFFFFF = { rsvdLo := 1, amp := 1, gclamp := 1, tri := 1, coding := 1, swdis := 1, lincomp := 0xF, rsvdHi := 0x3FF, sel := none } := by
  decide

/-! ### One step of each command (95_test_vectors.md 2.7, 2.8) -/

/-- Accepting clears the flags and takes the word off the port (40_frame_codec.md R113). -/
theorem test_step_accepts :
    next? (step { idleWith [0x100000002] with err := true, errStep := 7, done := true, step := 7 }) =
      some { State.reset with seqState := .busy, cmd := 0x1, arg := 0x00000002 } := by decide

theorem test_applyConfig_middle_byte :
    traceOf (exec (.applyConfig 2) (busyAt 0x1 2 2 [.byte 0x55])) = some [.tx 0x02 (.byte 0x55)] := by decide

theorem test_applyConfig_completes_without_result :
    next? (exec (.applyConfig 2) { busyAt 0x1 2 5 [] with result := 0x0ABCD }) =
      some { State.reset with cmd := 0x1, arg := 2, step := 5, done := true, result := 0x0ABCD } := by decide

theorem test_readConfig_command_byte :
    traceOf (exec (.readConfig 0) (busyAt 0x2 0 1 [.byte 0x00])) = some [.tx 0xA0 (.byte 0x00)] := by decide

theorem test_readConfig_completes :
    (next? (exec (.readConfig 0) { busyAt 0x2 0 10 [] with rxbuf := ⟨0x50, 0x02, 0x92⟩ })).map State.result = some 0x00292 := by decide

theorem test_triggerUpdate_flag_byte :
    traceOf (exec (.triggerUpdate 0) (busyAt 0x3 0 3 [.byte 0x00])) = some [.tx 0x01 (.byte 0x00)] := by decide

theorem test_triggerClear_flag_byte :
    traceOf (exec (.triggerClear 0xDEADBEEF) (busyAt 0x4 0xDEADBEEF 3 [.byte 0x00])) = some [.tx 0x02 (.byte 0x00)] := by decide

/-- The idle write's last byte is 0. -/
theorem test_triggerReset_idle_byte :
    traceOf (exec (.triggerReset 0) (busyAt 0x5 0 8 [.byte 0x00])) = some [.tx 0x00 (.byte 0x00)] := by decide

/-- X3: `FAIL` on the first byte of the idle write. -/
theorem test_triggerReset_aborts :
    next? (exec (.triggerReset 0) (busyAt 0x5 0 6 [.fail [0xEE]])) =
      some { State.reset with
        cmd := 0x5, step := 6, err := true, errStep := 6, done := true, failInfo := [0xEE], draws := 1, trace := [.tx 0x40 (.fail [0xEE])] } := by
  decide

theorem test_setOutput_first_byte :
    traceOf (exec (.setOutput 0x80000) (busyAt 0x6 0x80000 1 [.byte 0x00])) = some [.tx 0x18 (.byte 0x00)] := by decide

/-- X1: `FAIL` on the second byte; `RESULT` stays. -/
theorem test_setOutput_aborts :
    next? (exec (.setOutput 0x12345) { busyAt 0x6 0x12345 2 [.fail [], .byte 0x77] with result := 0x0ABCD }) =
      some { State.reset with
        cmd := 0x6, arg := 0x12345, step := 2, err := true, errStep := 2, done := true, result := 0x0ABCD, draws := 1
        answers := [.byte 0x77], trace := [.tx 0x23 (.fail [])] } := by decide

/-- X2: the second readback byte fails after the first was captured. -/
theorem test_getOutput_aborts :
    (next? (exec (.getOutput 0) { busyAt 0x7 0 7 [.fail []] with rxbuf := ⟨0x01, 0x00, 0x00⟩, result := 0x0ABCD })).map
      (fun t => (t.errStep, t.rxbuf, t.result)) = some (7, ⟨0x01, 0x00, 0x00⟩, 0x0ABCD) := by decide

theorem test_getOutput_captures :
    (next? (exec (.getOutput 0) (busyAt 0x7 0 7 [.byte 0x80]))).map State.rxbuf = some ⟨0x00, 0x80, 0x00⟩ := by decide

theorem test_setClear_first_byte :
    traceOf (exec (.setClear 0x12345) (busyAt 0x8 0x12345 1 [.byte 0x00])) = some [.tx 0x31 (.byte 0x00)] := by decide

theorem test_getClear_command_byte :
    traceOf (exec (.getClear 0) (busyAt 0x9 0 1 [.byte 0xFF])) = some [.tx 0xB0 (.byte 0xFF)] := by decide

theorem test_getClear_completes :
    (next? (exec (.getClear 0) { busyAt 0x9 0 10 [] with rxbuf := ⟨0x31, 0x23, 0x45⟩ })).map State.result = some 0x12345 := by decide

/-! ### One step of each frame kind (30_encoding.md R79, R80) -/

theorem test_wDac : traceOf (exec (.wDac 0x12345) (busyAt 0x6 0x12345 1 [.byte 0x00])) = some [.tx 0x11 (.byte 0x00)] := by decide
theorem test_wCtrl : traceOf (exec (.wCtrl 0x00292) (busyAt 0x1 2 3 [.byte 0x00])) = some [.tx 0x92 (.byte 0x00)] := by decide
theorem test_wClr : traceOf (exec (.wClr 0xABCDE) (busyAt 0x8 0xABCDE 2 [.byte 0x00])) = some [.tx 0xBC (.byte 0x00)] := by decide
theorem test_wSwctrl : traceOf (exec (.wSwctrl 0x00004) (busyAt 0x5 0 3 [.byte 0x00])) = some [.tx 0x04 (.byte 0x00)] := by decide
theorem test_rDac : traceOf (exec .rDac (busyAt 0x7 0 1 [.byte 0x00])) = some [.tx 0x90 (.byte 0x00)] := by decide
theorem test_rCtrl : traceOf (exec .rCtrl (busyAt 0x2 0 1 [.byte 0x00])) = some [.tx 0xA0 (.byte 0x00)] := by decide
theorem test_rClr : traceOf (exec .rClr (busyAt 0x9 0 1 [.byte 0x00])) = some [.tx 0xB0 (.byte 0x00)] := by decide

/-- The third readback byte is captured in its own place. -/
theorem test_dummy : (next? (exec .dummy (busyAt 0x9 0 8 [.byte 0x45]))).map State.rxbuf = some ⟨0x00, 0x00, 0x45⟩ := by decide

/-! ### The machine's step -/

/-- X6, X7: reserved codes are refused by name. -/
theorem test_step_refuses_reserved :
    refusal? (step (idleWith [0xA00000000])) = some (.reservedCommand 0xA) ∧
    refusal? (step (idleWith [0x000000000])) = some (.reservedCommand 0x0) := by decide

/-- X8: a second command presented while BUSY is held; the running one goes on. -/
theorem test_step_holds_second_command :
    (next? (step { busyAt 0x6 0x12345 3 [.byte 0x00] with port := [0x700000000] })).map (fun t => (t.port, t.cmd, t.step)) =
      some ([0x700000000], 0x6, 4) := by decide

/-- X9: the reset of the block at step 2. -/
theorem test_step_resets :
    next? (step { busyAt 0x6 0x12345 2 [] with resetLine := [true], trace := [.sel] }) = some { State.reset with trace := [.sel] } := by decide

/-- The words of the opcode table placed at reset run in the very next step. -/
theorem test_withFetchWord :
    (next? (step (State.reset.withFetchWord 40 0x600000005))).map (fun t => (t.cmd, t.arg, t.seqState)) = some (0x6, 5, .busy) ∧
    traceOf (step (State.reset.withFetchWord 24 0x200012)) = some [.sel] ∧ traceOf (step (State.reset.withFetchWord 24 0x000000)) = some [.sel] ∧
    refusal? (step (State.reset.withFetchWord 24 0xC00000)) = some (.reservedFrame 0xC00000) := by decide

/-- A placed frame with an undefined LINCOMP code, with a reserved bit set, or with two trigger bits is refused (70_reset_and_hazards.md R240,
30_encoding.md R84). -/
theorem test_withFetchWord_refuses_undefined_patterns :
    refusal? (step (State.reset.withFetchWord 24 0x200040)) = some (.reservedFrame 0x200040) ∧
    refusal? (step (State.reset.withFetchWord 24 0x200413)) = some (.reservedFrame 0x200413) ∧
    refusal? (step (State.reset.withFetchWord 24 0x400003)) = some (.reservedFrame 0x400003) := by decide

/-- A frame placed before a command is placed is dropped; DUMMY outside a readback phase is a write to reserved address 0 and refused (R79, R82). -/
theorem test_placed_frame_stays_in_its_place :
    (next? (step ((State.reset.withFetchWord 24 0).withFetchWord 40 0x600000005))).map State.inject = some none ∧
    refusal? (step { busyAt 0x6 5 0 [] with inject := some 0 }) = some (.reservedFrame 0) ∧
    refusal? (step { busyAt 0x9 5 4 [] with inject := some 0 }) = some (.reservedFrame 0) ∧
    traceOf (step { busyAt 0x9 5 5 [] with inject := some 0 }) = some [.sel] := by decide

/-- Lines of 95_test_vectors.md P1, with a blank line between. -/
theorem test_assemble : assemble "SET_OUTPUT 0x80000 ; set\n\nTRIGGER_UPDATE" = some [0x600080000, 0x300000000] := by decide

/-! ### Witnesses: a concrete state and operands that meet the hypotheses of each statement -/

theorem witness_RangeSelectorGivesCompensationCode : (0xFFFFFFFF : Arg) ≠ 1 ∧ (0xFFFFFFFF : Arg) ≠ 2 ∧ (0xFFFFFFFF : Arg) ≠ 3 ∧ (0xFFFFFFFF : Arg) ≠ 4 := by
  decide

theorem witness_SelectorIsRecoveredFromLegalCodes : lcinv 0b1100 = some 4 := by decide

theorem witness_EncodeOfDecodeIsTheWord : decode (.frame 0x1FFFFF) = .ok (.wDac 0xFFFFF) := by decide

theorem witness_FrameKindsHaveTheirBits :
    encode .rDac = .frame 0x900000 ∧ encode .rCtrl = .frame 0xA00000 ∧ encode .rClr = .frame 0xB00000 ∧ encode .dummy = .frame 0x000000 := by decide

/-- The boundary codes on both sides. -/
theorem witness_CommandWordsDecodeByTheirCode :
    decode (.cmd (0x0#4 ++ 5#32)) = .error (.reservedCommand 0x0) ∧ decode (.cmd (0x1#4 ++ 5#32)) = .ok (.applyConfig 5) ∧
    decode (.cmd (0x9#4 ++ 5#32)) = .ok (.getClear 5) ∧ decode (.cmd (0xA#4 ++ 5#32)) = .error (.reservedCommand 0xA) := by decide

theorem witness_ReservedFramesAreRejected :
    (0x500000#24).extractLsb' 20 4 ∉ [0#4, 1#4, 2#4, 3#4, 4#4, 9#4, 10#4, 11#4] ∧ decode (.frame 0x4FFFFF) = .ok (.wSwctrl 0xFFFFF) := by decide

/-- The data values at both ends under a kind that has none. -/
theorem witness_ReservedFramesAreRejected_data : (0x00001 : Data) ≠ 0 ∧ (0xFFFFF : Data) ≠ 0 := by decide

/-- The reserved codes next to the nine. -/
theorem witness_ScriptOfEachCommand : script 0x0 7 = none ∧ script 0xA 7 = none ∧ 10 ≤ (0xA#4).toNat ∧ 10 ≤ (0xF#4).toNat := by decide

theorem witness_FrameEncoderMatchesTheFrameKinds :
    encode (.wClr 0xABCDE) = .frame 0x3ABCDE ∧ encode .dummy = .frame 0x000000 ∧ encode .rClr = .frame 0xB00000 := by decide

theorem witness_EveryScriptIsItsCommandsFrames :
    (Instr.getClear 7).command? = some (0x9, 7) ∧ Instr.dummy ∈ commandFrames (.getClear 7) := by decide

/-- Scripts of both lengths, and a place of each kind. -/
theorem witness_EveryFrameIsThreeTransfersInsideOneSelect :
    (script 0x6 5).isSome = true ∧ (script 0x9 5).isSome = true ∧ scriptLength 0x6 5 = 5 ∧ scriptLength 0x9 5 = 10 ∧
    5 % 5 = 0 ∧ 9 % 5 = 4 ∧ 1 ≤ 6 % 5 ∧ 8 % 5 ≤ 3 := by decide

/-- The idle write of a trigger, whose first byte has top nibble 4. -/
theorem witness_SoftwareControlGetsOnlyTriggerValues_script :
    script 0x4 9 = some triggerClearScript ∧ triggerClearScript[5]? = some .sel ∧ triggerClearScript[5 + 1]? = some (.tx 0x40) ∧
    (0x40#8).extractLsb' 4 4 = 0x4#4 := by decide

theorem witness_SoftwareControlGetsOnlyTriggerValues :
    Instr.wSwctrl 0x00002 ∈ commandFrames (.triggerClear 0) ∧ Instr.wSwctrl 0x00000 ∈ commandFrames (.triggerReset 9) := by decide

theorem witness_EveryCommandIsAcceptedWhenIdle : idleSix.seqState = .idle := by decide

theorem witness_PortCommandIsAcceptedOnlyWhenIdleAndKnown :
    (idleWith [0x1#4 ++ 2#32]).resetAsserted = false ∧ (idleWith [0x1#4 ++ 2#32]).seqState = .idle ∧
    (idleWith [0x1#4 ++ 2#32]).port = [0x1#4 ++ 2#32] ∧ 1 ≤ (0x1#4).toNat ∧ (0x9#4).toNat ≤ 9 := by decide

theorem witness_PortCommandIsAcceptedOnlyWhenIdleAndKnown_busy :
    let s : State := { busyAt 0x6 5 0 [] with port := [0x700000000] }
    s.resetAsserted = false ∧ s.seqState = .busy ∧ step s = .next (afterStep s) := ⟨by decide, by decide, rfl⟩

theorem witness_PortCommandIsAcceptedOnlyWhenIdleAndKnown_reserved :
    (idleWith [0xA#4 ++ 2#32]).resetAsserted = false ∧ (idleWith [0xA#4 ++ 2#32]).seqState = .idle ∧
    (idleWith [0xA#4 ++ 2#32]).port = [0xA#4 ++ 2#32] ∧ 10 ≤ (0xA#4).toNat := by decide

theorem witness_ReservedCommandIsRefused :
    (idleWith [0x0#4 ++ 2#32]).resetAsserted = false ∧ (idleWith [0x0#4 ++ 2#32]).seqState = .idle ∧
    (idleWith [0x0#4 ++ 2#32]).port = [0x0#4 ++ 2#32] := by decide

/-- An event of each kind. -/
theorem witness_RunningCommandIssuesItsNextEvent :
    (Instr.getOutput 3).command? = some (0x7, 3) ∧ (busyAt 0x7 3 9 []).seqState = .busy ∧ script 0x7 3 = some getOutputScript ∧
    getOutputScript[0]? = some .sel ∧ getOutputScript[1]? = some (.tx 0x90) ∧ getOutputScript[8]? = some (.cap 2) ∧
    getOutputScript[(busyAt 0x7 3 9 []).step.toNat]? = some .desel := by decide

/-- A command of either length, read or not. -/
theorem witness_RunningCommandCompletesAtTheEndOfItsScript :
    (busyAt 0x7 3 10 []).seqState = .busy ∧ (busyAt 0x7 3 10 []).step.toNat = scriptLength 0x7 3 ∧
    (busyAt 0x8 3 5 []).seqState = .busy ∧ (busyAt 0x8 3 5 []).step.toNat = scriptLength 0x8 3 := by decide

theorem witness_OtherCommandWhileBusyChangesNothing :
    (Instr.getOutput 3).command? = some (0x7, 3) ∧ (busyAt 0x7 4 0 []).seqState = .busy ∧
    ((0x7, 3) : Code × Arg) ≠ ((busyAt 0x7 4 0 []).cmd, (busyAt 0x7 4 0 []).arg) := by decide

theorem witness_FrameKindIssuesItsEventOfThisPlace :
    (busyAt 0x6 5 4 []).seqState = .busy ∧ (busyAt 0x6 5 4 []).step.toNat < scriptLength 0x6 5 := by decide

/-- The first frame, and the second of a trigger. -/
theorem witness_SentFrameRunsToItsEnd :
    encode (.wSwctrl 0) = .frame 0x400000 ∧ Instr.wSwctrl 0 ≠ .dummy ∧ (busyAt 0x3 0 5 sixBytes).seqState = .busy ∧
    (busyAt 0x3 0 5 sixBytes).step.toNat % 5 = 0 ∧ (busyAt 0x3 0 5 sixBytes).step.toNat < scriptLength 0x3 0 ∧
    ∀ k < 3, (busyAt 0x3 0 5 sixBytes).answerAt k = .byte (byteOf k) := by decide

theorem witness_ReadbackPhaseCapturesThreeBytes :
    (busyAt 0x7 0 5 sixBytes).seqState = .busy ∧ (busyAt 0x7 0 5 sixBytes).step.toNat % 5 = 0 ∧
    (busyAt 0x7 0 5 sixBytes).step.toNat < scriptLength 0x7 0 ∧ ∀ k < 3, (busyAt 0x7 0 5 sixBytes).answerAt k = .byte (byteOf k) := by decide

theorem witness_FrameStepIsTheCommandsStep :
    (Instr.getOutput 0).command? = some (0x7, 0) ∧ (busyAt 0x7 0 9 []).seqState = .busy ∧ (busyAt 0x7 0 9 []).step.toNat < scriptLength 0x7 0 ∧
    (commandFrames (.getOutput 0))[(busyAt 0x7 0 9 []).step.toNat / 5]? = some .dummy := by decide

theorem witness_NoFrameIsSentWhereNoneIsDue :
    Instr.rDac.command? = none ∧ State.reset.seqState = .idle ∧ (busyAt 0x6 0 5 []).seqState = .busy ∧
    scriptLength 0x6 0 ≤ (busyAt 0x6 0 5 []).step.toNat := by decide

/-- One excluded frame for each clause about placed frames. -/
theorem witness_NoFrameIsSentWhereNoneIsDue_placed (w : FrameWord) :
    ({ busyAt 0x6 5 0 [] with inject := some w } : State).resetAsserted = false ∧
    ({ busyAt 0x6 5 0 [] with inject := some w } : State).seqState = .busy ∧ ({ busyAt 0x6 5 0 [] with inject := some w } : State).inject = some w ∧
    (0xC00000#24).extractLsb' 20 4 ∉ [0#4, 1#4, 2#4, 3#4, 4#4, 9#4, 10#4, 11#4] ∧
    (0x00001 : Data).extractLsb' 0 1 ≠ 0 ∧ (0x80000 : Data).extractLsb' 10 10 ≠ 0 ∧ (0x00400 : Data).extractLsb' 10 10 ≠ 0 ∧
    (0x00040 : Data).extractLsb' 6 4 ∉ [0b0000#4, 0b1001#4, 0b1010#4, 0b1011#4, 0b1100#4] ∧
    (0x00003 : Data) ∉ [0x00001, 0x00002, 0x00004, 0x00000] ∧ (0x00001 : Data) ≠ 0 ∧
    script 0x6 5 = some (setOutputScript 5) ∧ (setOutputScript 5)[0 / 5 * 5 + 1]? ≠ some (.cap 0) := by
  refine ⟨rfl, rfl, rfl, ?_⟩
  decide

theorem witness_WriteCommandsRunToCompletion : idleSix.seqState = .idle ∧ ∀ k < 3, idleSix.answerAt k = .byte (byteOf k) := by decide

theorem witness_TriggerCommandsRunToCompletion : idleSix.seqState = .idle ∧ ∀ k < 6, idleSix.answerAt k = .byte (byteOf k) := by decide

theorem witness_ReadCommandsRunToCompletion : idleSix.seqState = .idle ∧ ∀ k < 6, idleSix.answerAt k = .byte (byteOf k) := by decide

/-- The last transfer of a read fails, after five bytes. -/
theorem witness_CommandAbortsAtItsFirstFailingTransfer :
    let s : State := { State.reset with answers := [.byte 0x10, .byte 0x11, .byte 0x12, .byte 0x13, .byte 0x14, .fail [0xEE]] }
    (Instr.getOutput 0).command? = some (0x7, 0) ∧ script 0x7 0 = some getOutputScript ∧ s.seqState = .idle ∧
    getOutputScript[8]? = some (.cap 2) ∧ Event.request (.cap 2) = .xfer 0x00 ∧
    ((getOutputScript.take 8).filter (fun e => e ≠ .sel ∧ e ≠ .desel)).length = 5 ∧
    (∀ k < 5, s.answerAt k = .byte (byteOf k)) ∧ s.answerAt 5 = .fail [0xEE] := by
  refine ⟨by decide, by decide, by decide, by decide, rfl, by decide, by decide, by decide⟩

theorem witness_SequencerRefinesTheWholeCommand :
    (idleWith [0x9#4 ++ 0#32]).seqState = .idle ∧ (idleWith [0x9#4 ++ 0#32]).resetLine = [] ∧ (idleWith [0x9#4 ++ 0#32]).inject = none ∧
    (idleWith [0x9#4 ++ 0#32]).port = [0x9#4 ++ 0#32] ∧ 1 ≤ (0x9#4).toNat ∧ (0x9#4).toNat ≤ 9 := by decide

/-- A running state that is safe. -/
theorem busy_safe : (busyAt 0x7 0 0 []).Safe where
  step_le := by decide
  no_err := by decide
  aborted := by decide
  ended := by decide
  completed := by decide
  running := by decide
  placed := by decide

theorem witness_EveryRunningCommandEnds :
    (busyAt 0x7 0 0 []).Safe ∧ (busyAt 0x7 0 0 []).inject = none ∧ (busyAt 0x7 0 0 []).seqState = .busy ∧ (busyAt 0x7 0 0 []).resetLine = [] :=
  ⟨busy_safe, rfl, rfl, rfl⟩

theorem witness_AnswersToWritesReachNoRegister :
    (Instr.triggerReset 4).command? = some (0x5, 4) ∧ isReadCode 0x5 = false ∧ State.reset.seqState = .idle ∧
    [0x10#8, 0x11#8, 0x12#8, 0x13#8, 0x14#8, 0x15#8].length = 6 ∧ [0xFF#8, 0xFF#8, 0xFF#8, 0xFF#8, 0xFF#8, 0xFF#8].length = 6 := by decide

theorem witness_StepRunsTheDecodedInstruction_port :
    (idleWith [0x100000002]).resetAsserted = false ∧ (idleWith [0x100000002]).seqState = .idle ∧
    (idleWith [0x100000002]).port = [0x100000002] ∧ decode (.cmd 0x100000002) = .ok (.applyConfig 2) := by decide

theorem witness_StepRunsTheDecodedInstruction_latched :
    (busyAt 0x1 2 3 []).resetAsserted = false ∧ (busyAt 0x1 2 3 []).seqState = .busy ∧ (busyAt 0x1 2 3 []).inject = none ∧
    decode (.cmd ((busyAt 0x1 2 3 []).cmd ++ (busyAt 0x1 2 3 []).arg)) = .ok (.applyConfig 2) := by decide

/-- At the last event of a placed frame, where it is dropped; the due frame itself. -/
theorem witness_StepRunsTheDecodedInstruction_placed :
    let s : State := { busyAt 0x1 2 4 [] with inject := some 0x200292 }
    s.resetAsserted = false ∧ s.seqState = .busy ∧ s.inject = some 0x200292 ∧ decode (.frame 0x200292) = .ok (.wCtrl 0x00292) ∧
    s.PlacedIsDue 0x200292 := ⟨by decide, rfl, rfl, by decide, .inl (by decide)⟩

/-- A control word that is allowed and not the due one. -/
theorem witness_StepRunsTheDecodedInstruction_placed_control :
    let s : State := { busyAt 0x1 2 0 [] with inject := some 0x200000 }
    s.resetAsserted = false ∧ s.seqState = .busy ∧ s.inject = some 0x200000 ∧ decode (.frame 0x200000) = .ok (.wCtrl 0x00000) ∧
    s.PlacedIsDue 0x200000 :=
  ⟨by decide, rfl, rfl, by decide, .inr ⟨0x00000, 0x00292, by decide, by decide, by decide, by decide, by decide⟩⟩

theorem witness_StepRunsTheDecodedInstruction_refused :
    let s : State := { busyAt 0x6 5 0 [] with inject := some 0x000000 }
    s.resetAsserted = false ∧ s.seqState = .busy ∧ s.inject = some 0x000000 ∧ ¬ s.PlacedIsDue 0x000000 := by
  refine ⟨by decide, rfl, rfl, ?_⟩
  rintro (h | ⟨d, e, _, h, _⟩)
  · exact absurd h (by decide)
  · have hk := congrArg (fun o => o.map (fun v : FrameWord => v.extractLsb' 20 4)) h
    exact absurd (hk.trans (congrArg some (show (0x2#4 ++ e : FrameWord).extractLsb' 20 4 = 0x2#4 from kind_of_append _ _))) (by decide)

/-- Both ends of the script, and one past it. -/
theorem witness_StepRunsTheDecodedInstruction_due :
    script 0x9 5 = some getClearScript ∧ (busyAt 0x9 5 0 []).step.toNat < getClearScript.length ∧
    (busyAt 0x9 5 9 []).step.toNat < getClearScript.length ∧ scriptLength 0x9 5 ≤ (busyAt 0x9 5 10 []).step.toNat := by decide

theorem witness_StepRunsTheDecodedInstruction_nothing :
    State.reset.resetAsserted = false ∧ State.reset.seqState = .idle ∧ State.reset.port = [] := by decide

theorem witness_AssertedResetEndsAnyCommand : ({ busyAt 0x6 5 2 [] with resetLine := [true] } : State).resetAsserted = true := by decide

/-- A step that issues a request, and one that issues none. -/
theorem witness_EachStepIssuesTheRequestOnThePort :
    (busyAt 0x6 5 0 []).resetAsserted = false ∧ step (busyAt 0x6 5 0 []) = .next (afterStep (busyAt 0x6 5 0 [])) ∧
    State.reset.resetAsserted = false ∧ step State.reset = .next (afterStep State.reset) := ⟨by decide, rfl, by decide, rfl⟩

theorem witness_OnlyReadbackEventsWriteRxbuf :
    (busyAt 0x7 0 8 sixBytes).resetAsserted = false ∧ step (busyAt 0x7 0 8 sixBytes) = .next (afterStep (busyAt 0x7 0 8 sixBytes)) ∧
    (afterStep (busyAt 0x7 0 8 sixBytes)).rxbuf ≠ (busyAt 0x7 0 8 sixBytes).rxbuf := ⟨by decide, rfl, by decide⟩

theorem witness_OnlyCompletedReadsWriteResult :
    let s : State := { busyAt 0x7 0 10 [] with rxbuf := ⟨0x00, 0x80, 0x00⟩ }
    s.resetAsserted = false ∧ step s = .next (afterStep s) ∧ (afterStep s).result ≠ s.result := ⟨by decide, rfl, by decide⟩

theorem witness_OnlyAcceptingWritesCommandAndArgument :
    (idleWith [0x100000002]).resetAsserted = false ∧ step (idleWith [0x100000002]) = .next (afterStep (idleWith [0x100000002])) ∧
    (afterStep (idleWith [0x100000002])).cmd ≠ (idleWith [0x100000002]).cmd ∧
    (busyAt 0x7 0 1 sixBytes).seqState = .busy ∧ step (busyAt 0x7 0 1 sixBytes) = .next (afterStep (busyAt 0x7 0 1 sixBytes)) :=
  ⟨by decide, rfl, by decide, rfl, rfl⟩

/-- DONE set by completing, DONE and ERR set by an abort. -/
theorem witness_FlagsChangeOnlyAsTheirRuleSays_set :
    (afterStep (busyAt 0x6 5 5 [])).done = true ∧ step (busyAt 0x6 5 5 []) = .next (afterStep (busyAt 0x6 5 5 [])) ∧
    (afterStep (busyAt 0x6 5 1 [.fail []])).err = true ∧ step (busyAt 0x6 5 1 [.fail []]) = .next (afterStep (busyAt 0x6 5 1 [.fail []])) :=
  ⟨by decide, rfl, by decide, rfl⟩

/-- DONE and ERR cleared by accepting. -/
theorem witness_FlagsChangeOnlyAsTheirRuleSays_cleared :
    let s : State := { idleWith [0x700000000] with err := true, errStep := 7, done := true, step := 7 }
    s.resetAsserted = false ∧ step s = .next (afterStep s) ∧ s.done = true ∧ (afterStep s).done = false ∧ s.err = true ∧ (afterStep s).err = false :=
  ⟨by decide, rfl, by decide, by decide, by decide, by decide⟩

/-- A transfer that fails, and one that does not. -/
theorem witness_FailureIsRaisedOnlyByAFailedTransfer :
    (busyAt 0x6 5 3 [.fail [1]]).resetAsserted = false ∧ (busyAt 0x6 5 3 [.fail [1]]).err = false ∧
    step (busyAt 0x6 5 3 [.fail [1]]) = .next (afterStep (busyAt 0x6 5 3 [.fail [1]])) ∧ (afterStep (busyAt 0x6 5 3 [.fail [1]])).err = true ∧
    step (busyAt 0x6 5 3 sixBytes) = .next (afterStep (busyAt 0x6 5 3 sixBytes)) ∧ (afterStep (busyAt 0x6 5 3 sixBytes)).err = false :=
  ⟨by decide, by decide, rfl, by decide, rfl, by decide⟩

theorem witness_StatusPortPresentsTheResult :
    (Instr.readConfig 0).command? = some ((busyAt 0x2 0 10 []).cmd, (busyAt 0x2 0 10 []).arg) ∧ (busyAt 0x2 0 10 []).seqState = .busy ∧
    (busyAt 0x2 0 10 []).err = false ∧ isReadCode (busyAt 0x2 0 10 []).cmd = true ∧ (busyAt 0x2 0 10 []).step.toNat = scriptLength 0x2 0 := by decide

theorem witness_EveryStepKeepsTheRegistersSafe : (busyAt 0x7 0 0 []).Safe ∧ step (busyAt 0x7 0 0 []) = .next (afterStep (busyAt 0x7 0 0 [])) :=
  ⟨busy_safe, rfl⟩

/-- A safe state whose step is refused: a reserved word on the idle block's port. -/
theorem witness_SafeStatesNeverFault : (idleWith [0xF00000000]).Safe ∧ step (idleWith [0xF00000000]) = .refused (.reservedCommand 0xF) :=
  ⟨⟨by decide, by decide, by decide, by decide, by decide, by decide, by decide⟩, rfl⟩

/-- SET_OUTPUT 0x12345 after its first byte. -/
def midCommand : State := { busyAt 0x6 0x12345 2 sixBytes with trace := [.sel, .tx 0x11 (.byte 0x00)] }

/-- The trace of `midCommand` is legal. -/
theorem midCommand_legal : midCommand.TraceLegal :=
  ⟨rfl, [], [.sel, .tx 0x11 (.byte 0x00)], rfl, by simp, setOutputScript 0x12345, rfl, by decide, rfl⟩

theorem witness_EveryStepKeepsTheTraceLegal : midCommand.TraceLegal ∧ step midCommand = .next (afterStep midCommand) := ⟨midCommand_legal, rfl⟩

theorem witness_NoReservedFrameIsEverSent :
    midCommand.TraceLegal ∧ midCommand.trace[0]? = some .sel ∧ midCommand.trace[0 + 1]? = some (.tx 0x11 (.byte 0x00)) :=
  ⟨midCommand_legal, rfl, rfl⟩

/-- GET_CLEAR after the three DUMMY bytes of its readback phase. -/
def midReadback : State :=
  { busyAt 0x9 0 9 [] with
    trace := [.sel, .tx 0xB0 (.byte 1), .tx 0x00 (.byte 2), .tx 0x00 (.byte 3), .desel,
      .sel, .tx 0x00 (.byte 4), .tx 0x00 (.byte 5), .tx 0x00 (.byte 6)] }

/-- The clauses about top nibble 0 and about three bytes sent. -/
theorem witness_NoReservedFrameIsEverSent_dummy :
    midReadback.TraceLegal ∧ midReadback.trace[5]? = some .sel ∧ midReadback.trace[5 + 1]? = some (.tx 0x00 (.byte 4)) ∧
    (0x00#8).extractLsb' 4 4 = 0#4 ∧ midReadback.trace[5 + 2]? = some (.tx 0x00 (.byte 5)) ∧
    midReadback.trace[5 + 3]? = some (.tx 0x00 (.byte 6)) :=
  ⟨⟨rfl, [], midReadback.trace, rfl, by simp, getClearScript, rfl, by decide, rfl⟩, rfl, rfl, by decide, rfl, rfl⟩

end Sys2Proof.Tests
end

