-- ==== Sys2Proof/Proofs/Scope.lean ====
section
/-! PROOF. The statements of 00_scope.md: the truncation of an unsigned value to the DAC's 20 bits. -/

namespace Sys2Proof.Machine

/-- The value of a truncation, as a remainder; other values are cut, none is rejected (00_scope.md R9). -/
@[simp] theorem trunc20_toNat (v : Nat) : (trunc20 v).toNat = v % 2 ^ 20 := by
  rw [trunc20_eq_ofNat, BitVec.toNat_ofNat]

/-- Settles O1: the model's truncation is the remainder by 2^20, and the mask 0xFFFFF = 2^20 - 1 takes the same remainder. -/
theorem trunc20KeepsTheLowTwentyBits : Obligations.Trunc20KeepsTheLowTwentyBits := by
  intro v
  have mask_is_remainder : v &&& 0xFFFFF = v % 2 ^ 20 := Nat.and_two_pow_sub_one_eq_mod v 20
  exact ⟨(trunc20_toNat v).trans mask_is_remainder.symm, trunc20_toNat v⟩

end Sys2Proof.Machine
end

