-- ==== Sys2Proof/Proofs/Encoding.lean ====
section
/-! PROOF. The statements of 30_encoding.md: the bits of the frame words. -/

namespace Sys2Proof.Machine

/-- The four write words lead with the direction bit 0 and the three address bits, which are the one nibble the encoder writes; the data
stays a variable (30_encoding.md R80). -/
theorem encode_write_bits (d : Data) :
    encode (.wDac d) = .frame (0b0#1 ++ 0b001#3 ++ d) ∧ encode (.wCtrl d) = .frame (0b0#1 ++ 0b010#3 ++ d) ∧
    encode (.wClr d) = .frame (0b0#1 ++ 0b011#3 ++ d) ∧ encode (.wSwctrl d) = .frame (0b0#1 ++ 0b100#3 ++ d) :=
  ⟨rfl, rfl, rfl, rfl⟩

/-- An instruction encodes to one frame word, so the bytes of any frame word it encodes to are the bytes of a known one. -/
theorem frameBytes_of_encode {i : Instr} {v : FrameWord} (hv : encode i = .frame v) (w : FrameWord) (hw : encode i = .frame w) :
    frameBytes w = frameBytes v :=
  congrArg frameBytes (CodeWord.frame.inj (hw.symm.trans hv))

/-- Settles O15: the write words by `encode_write_bits`; the kinds without data encode to one constant word each, whose bytes are computed. -/
theorem frameKindsHaveTheirBits : Obligations.FrameKindsHaveTheirBits := by
  have rDac_bytes : frameBytes 0x900000 = ⟨0x90, 0x00, 0x00⟩ := by decide
  have rCtrl_bytes : frameBytes 0xA00000 = ⟨0xA0, 0x00, 0x00⟩ := by decide
  have rClr_bytes : frameBytes 0xB00000 = ⟨0xB0, 0x00, 0x00⟩ := by decide
  have dummy_bytes : frameBytes 0x000000 = ⟨0x00, 0x00, 0x00⟩ := by decide
  exact ⟨encode_write_bits,
    fun w hw => (frameBytes_of_encode rfl w hw).trans rDac_bytes,
    fun w hw => (frameBytes_of_encode rfl w hw).trans rCtrl_bytes,
    fun w hw => (frameBytes_of_encode rfl w hw).trans rClr_bytes,
    fun w hw => (frameBytes_of_encode rfl w hw).trans dummy_bytes⟩

end Sys2Proof.Machine
end

