-- ==== Sys2Proof/Proofs/FrameCodec.lean ====
section
/-! PROOF. The statements of 40_frame_codec.md: the address multiplexer, the frame encoder and decoder, the scripts, completion, and the
answers to writes. -/

namespace Sys2Proof.Machine

/-! ### The combinational units -/

/-- AMUX gives one of the four used addresses (40_frame_codec.md R100). -/
theorem amux_used (r : BitVec 2) : amux r = addrDac ∨ amux r = addrCtrl ∨ amux r = addrClr ∨ amux r = addrSwctrl := by
  unfold amux
  split
  · exact .inl rfl
  · exact .inr (.inl rfl)
  · exact .inr (.inr (.inl rfl))
  · exact .inr (.inr (.inr rfl))

/-- Settles O2: the table is computed, and each of the four used addresses differs from each reserved one. -/
theorem amuxGivesOnlyUsedAddresses : Obligations.AmuxGivesOnlyUsedAddresses := by
  refine ⟨rfl, rfl, rfl, rfl, rfl, fun r => ?_⟩
  rcases amux_used r with h | h | h | h <;> rw [h] <;> decide

/-- Truncation looks at the low 20 bits only (40_frame_codec.md R101). -/
theorem trunc20_mod (v : Nat) : trunc20 (v % 2 ^ 20) = trunc20 v :=
  BitVec.eq_of_toNat_eq (by rw [trunc20_toNat, trunc20_toNat, Nat.mod_mod])

/-- So the encoder, which sees its value only truncated, cuts a wider value and does not reject it. -/
theorem fenc_mod (rw : BitVec 1) (a : Addr) (v : Nat) : fenc rw a (v % 2 ^ 20) = fenc rw a v := by
  unfold fenc
  rw [trunc20_mod]

/-- The shifts and ORs of FENC's first byte are the concatenation `{rw, a, d[19:16]}` (40_frame_codec.md R101, R102). -/
theorem fenc_byte0 (rw : BitVec 1) (a : Addr) (v : Nat) :
    (fenc rw a v).byte0 = rw ++ a ++ (trunc20 v).extractLsb' 16 4 := by
  have h := BitVec.setWidth_append_append_eq_shiftLeft_setWidth_or (w''' := 8) (b := rw) (b' := a) (b'' := (trunc20 v).extractLsb' 16 4)
  rw [BitVec.setWidth_eq] at h
  exact h.symm

/-- The three fields of a frame as FENC lays them out. -/
theorem fenc_direction (rw : BitVec 1) (a : Addr) (v : Nat) : (fenc rw a v).byte0.extractLsb' 7 1 = rw := by
  rw [fenc_byte0, BitVec.extractLsb'_append_eq_of_le (by decide)]
  exact extract_upper rw a

theorem fenc_address (rw : BitVec 1) (a : Addr) (v : Nat) : (fenc rw a v).byte0.extractLsb' 4 3 = a := by
  rw [fenc_byte0, BitVec.extractLsb'_append_eq_of_le (by decide)]
  exact extract_lower rw a

theorem fenc_data (rw : BitVec 1) (a : Addr) (v : Nat) :
    ((fenc rw a v).byte0.extractLsb' 0 4 ++ (fenc rw a v).byte1 ++ (fenc rw a v).byte2 : Data) = trunc20 v := by
  rw [fenc_byte0, extract_lower]
  have top : (trunc20 v).extractLsb' 16 4 ++ (trunc20 v).extractLsb' 8 8 = (trunc20 v).extractLsb' 8 12 :=
    BitVec.extractLsb'_append_extractLsb'_eq_extractLsb' rfl
  exact (congrArg (· ++ (trunc20 v).extractLsb' 0 8) top).trans (append_of_extract (m := 8) (n := 12) (trunc20 v))

/-- The read frame: direction bit and address, then zeroes (40_frame_codec.md R101). -/
theorem fenc_read (a : Addr) : fenc 1 a 0 = ⟨0x80 ||| (a.setWidth 8 <<< 4), 0x00, 0x00⟩ :=
  congrArg (Bytes3.mk · 0x00 0x00) BitVec.or_zero

/-- Settles O3: the three fields by the lemmas above, the truncation by `fenc_mod`; the example is computed. -/
theorem fencPacksDirectionAddressAndData : Obligations.FencPacksDirectionAddressAndData :=
  ⟨fun rw a v => ⟨fenc_direction rw a v, fenc_address rw a v, fenc_data rw a v, (fenc_mod rw a v).symm⟩,
    fenc_read, by decide, (fenc_mod 0 1 0x100000).symm⟩

/-- FDEC keeps the low 20 bits of the three bytes assembled: the mask takes nothing that the width would not (40_frame_codec.md R103). -/
theorem fdec_eq_setWidth (r : Bytes3) : fdec r = (r.byte0 ++ r.byte1 ++ r.byte2).setWidth 20 := by
  have assembled := BitVec.setWidth_append_append_eq_shiftLeft_setWidth_or (w''' := 24) (b := r.byte0) (b' := r.byte1) (b'' := r.byte2)
  have mask : (0x0FFFFF#24).setWidth 20 = BitVec.allOnes 20 := by decide
  rw [BitVec.setWidth_eq] at assembled
  unfold fdec
  rw [BitVec.setWidth_and, mask, BitVec.and_allOnes, assembled]

/-- The equivalent form `{r0[3:0], r1, r2}` of 40_frame_codec.md R103. -/
theorem fdec_eq_append (r : Bytes3) : fdec r = r.byte0.extractLsb' 0 4 ++ r.byte1 ++ r.byte2 := by
  calc fdec r = (r.byte0 ++ r.byte1 ++ r.byte2).setWidth (12 + 8) := fdec_eq_setWidth r
    _ = (r.byte0 ++ r.byte1).setWidth (4 + 8) ++ r.byte2 := by rw [BitVec.setWidth_append_of_eq rfl, BitVec.setWidth_eq]
    _ = r.byte0.setWidth 4 ++ r.byte1 ++ r.byte2 := by rw [BitVec.setWidth_append_of_eq rfl, BitVec.setWidth_eq]
    _ = r.byte0.extractLsb' 0 4 ++ r.byte1 ++ r.byte2 := by rw [BitVec.setWidth_eq_extractLsb' (by decide)]

/-- Three bytes assembled, as a number. -/
theorem bytes_toNat (b0 b1 b2 : Byte) : (b0 ++ b1 ++ b2).toNat = b0.toNat * 2 ^ 16 + b1.toNat * 2 ^ 8 + b2.toNat := by
  rw [BitVec.toNat_append, BitVec.toNat_append, ← Nat.shiftLeft_add_eq_or_of_lt b1.isLt, ← Nat.shiftLeft_add_eq_or_of_lt b2.isLt,
    Nat.shiftLeft_eq, Nat.shiftLeft_eq]
  omega

/-- Settles O5: the number by `bytes_toNat`, the mask being the remainder by 2^20; the corner cases are computed. -/
theorem fdecAssemblesAndDiscardsTheTopNibble : Obligations.FdecAssemblesAndDiscardsTheTopNibble := by
  refine ⟨fun r => ⟨?_, fdec_eq_append r⟩, by decide, by decide, by decide⟩
  rw [fdec_eq_setWidth, BitVec.toNat_setWidth, bytes_toNat]
  exact (Nat.and_two_pow_sub_one_eq_mod _ 20).symm

/-! ### Scripts -/

/-- Settles O20: a code with a script is one of the nine (`script_length`); the nine are the table's rows, of known length. -/
theorem scriptOfEachCommand : Obligations.ScriptOfEachCommand := by
  refine ⟨fun c arg reserved => Option.eq_none_iff_forall_ne_some.mpr fun sc h => ?_, fun arg => ?_⟩
  · have known := (script_length h).1
    rcases reserved with rfl | reserved
    · exact absurd known.1 (by decide)
    · omega
  · exact ⟨rfl, length_writeOp _ _, rfl, length_readOp _, rfl, length_trig _, rfl, length_trig _, rfl, length_trig _,
      rfl, length_writeOp _ _, rfl, length_readOp _, rfl, length_writeOp _ _, rfl, length_readOp _⟩

/-- One assertion around three sent bytes, and one around three captured ones. -/
theorem count_sel_sendBytes (f : Bytes3) : (sendBytes f).count .sel = 1 := rfl

theorem count_sel_readbackPhase : readbackPhase.count .sel = 1 := rfl

/-- Settles O24: a read is a command phase, which ends with DESEL, and a readback phase, which begins with SEL; each has one SEL. -/
theorem readIsTwoChipSelectAssertions : Obligations.ReadIsTwoChipSelectAssertions := by
  intro a
  have two : (readOp a).count .sel = 2 := by
    rw [readOp, List.count_append, commandPhase, count_sel_sendBytes, count_sel_readbackPhase]
  exact ⟨rfl, rfl, two, length_readOp a⟩

/-! ### Completion -/

theorem isReadCode_iff (c : Code) : isReadCode c = true ↔ c = 0x2 ∨ c = 0x7 ∨ c = 0x9 := decide_eq_true_iff

/-- What completing changes, by the command's code (40_frame_codec.md R115). -/
theorem completeFor_eq (c : Code) (s : State) :
    completeFor c s = { s with
      result := if c = 0x2 ∨ c = 0x7 ∨ c = 0x9 then fdec s.rxbuf else s.result
      done := true, seqState := .idle } := by
  simp only [completeFor, ← isReadCode_iff]
  split <;> rfl

theorem completeFor_write {c : Code} (hw : isReadCode c = false) : completeFor c = completeWrite :=
  if_neg (ne_true_of_eq_false hw)

/-- A running command at the end of its script completes. -/
theorem exec_end {i : Instr} {s : State} (hi : i.command? = some (s.cmd, s.arg)) (hb : s.seqState = .busy)
    (he : s.step.toNat = scriptLength s.cmd s.arg) : exec i s = .next (completeFor s.cmd s) := by
  obtain ⟨sc, hs⟩ := script_of_command hi
  obtain ⟨-, -, hl⟩ := script_length hs
  rw [exec_of_command hi hs, runCommand_end hb (he.trans hl)]

/-- Settles O30: the step at the script's end is the completion. -/
theorem runningCommandCompletesAtTheEndOfItsScript : Obligations.RunningCommandCompletesAtTheEndOfItsScript := by
  intro i s hi hb he
  rw [exec_end hi hb he, completeFor_eq]

/-! ### The answers to writes

A command that writes runs through its events, each of which discards what is answered; so its end state is a function of the state it began
in, but for the trace and for the answers and the draws used up. -/

/-- The number of transfers among events. -/
def transferCount (es : List Event) : Nat := es.countP fun e => e.exchange.isSome

theorem transferCount_cons (e : Event) (es : List Event) : transferCount (e :: es) = transferCount [e] + transferCount es := by
  simp only [transferCount, ← List.countP_append, List.singleton_append]

/-- An event that keeps no received byte: any but `CAP` (40_frame_codec.md R107, R109). -/
def Event.Discards (e : Event) : Prop := ∀ j, e ≠ .cap j

/-- `es` issued in a row from `s`, all transfers answered and all answers discarded; `l` is what the trace gains. -/
def afterWrites (es : List Event) (l : List TraceEvent) (s : State) : State :=
  { s with
    step := s.step + BitVec.ofNat 4 es.length, answers := s.answers.drop (transferCount es), draws := s.draws + transferCount es
    trace := s.trace ++ l }

theorem afterWrites_nil (s : State) : afterWrites [] [] s = s := by
  simp [afterWrites, transferCount]

theorem afterWrites_cons (e : Event) (es : List Event) (x : TraceEvent) (l : List TraceEvent) (s : State) :
    afterWrites es l (afterWrites [e] [x] s) = afterWrites (e :: es) (x :: l) s := by
  have hs : BitVec.ofNat 4 (e :: es).length = 1 + BitVec.ofNat 4 es.length := by
    rw [List.length_cons, Nat.add_comm, BitVec.ofNat_add]
    rfl
  simp only [afterWrites, transferCount_cons e es, hs, List.drop_drop, List.append_assoc, List.singleton_append, Nat.add_assoc, BitVec.add_assoc]
  rfl

/-- An event that discards, issued: if it transfers, that transfer is answered with a byte. -/
theorem issue_discarding {e : Event} (he : e.Discards) {s : State} (ha : transferCount [e] = 0 ∨ ∃ r, s.answerAt 0 = .byte r) :
    ∃ x : TraceEvent, x.request = e.request ∧ issue e s = afterWrites [e] [x] s := by
  rw [← State.nextAnswer_eq_answerAt] at ha
  cases e with
  | sel => exact ⟨.sel, rfl, rfl⟩
  | desel => exact ⟨.desel, rfl, rfl⟩
  | tx b =>
    obtain h | ⟨r, hr⟩ := ha
    · cases h
    · refine ⟨.tx b (.byte r), rfl, ?_⟩
      simp only [issue, transfer, hr]
      simp [afterWrites, transferCount, Event.exchange, State.takeAnswer, State.record, State.advance]
  | cap j => exact absurd rfl (he j)

/-- After events that discard, the answers go on where these left off. -/
theorem answerAt_afterWrites (es : List Event) (l : List TraceEvent) (s : State) (k : Nat) :
    (afterWrites es l s).answerAt k = s.answerAt (transferCount es + k) := by
  simp only [State.answerAt, afterWrites, List.getElem?_drop, Nat.add_assoc]

/-- `s` runs the command `i`, and `es` is what is left of its script. -/
structure State.Runs (i : Instr) (es : List Event) (s : State) : Prop where
  command : i.command? = some (s.cmd, s.arg)
  busy : s.seqState = .busy
  left : ∃ issued, script s.cmd s.arg = some (issued ++ es) ∧ s.step.toNat = issued.length

/-- Accepting a command leaves all of its script. -/
theorem runs_accept {i : Instr} {c : Code} {arg : Arg} {sc : List Event} (hi : i.command? = some (c, arg)) (hs : script c arg = some sc)
    (s : State) : (accept c arg s).Runs i sc :=
  ⟨hi, rfl, [], hs, rfl⟩

/-- With nothing left, the command completes. -/
theorem State.Runs.exec_nil {i : Instr} {s : State} (h : s.Runs i []) : exec i s = .next (completeFor s.cmd s) := by
  obtain ⟨hi, hb, issued, hs, hstep⟩ := h
  refine exec_end hi hb ?_
  rw [(script_length hs).2.2, hstep, List.append_nil]

/-- Otherwise its next event is issued. -/
theorem State.Runs.exec_cons {i : Instr} {e : Event} {es : List Event} {s : State} (h : s.Runs i (e :: es)) :
    exec i s = .next (issue e s) := by
  obtain ⟨hi, hb, issued, hs, hstep⟩ := h
  rw [exec_of_command hi hs, runCommand_event hb]
  rw [hstep, List.getElem?_append_right (Nat.le_refl _), Nat.sub_self, List.getElem?_cons_zero]

/-- And the events after it are left. -/
theorem State.Runs.after {i : Instr} {e : Event} {es : List Event} {s : State} (h : s.Runs i (e :: es)) (x : TraceEvent) :
    (afterWrites [e] [x] s).Runs i es := by
  obtain ⟨hi, hb, issued, hs, hstep⟩ := h
  refine ⟨hi, hb, issued ++ [e], by rw [List.append_assoc]; exact hs, ?_⟩
  obtain ⟨-, hlen, -⟩ := script_length hs
  rw [List.length_append, List.length_cons] at hlen
  have room : s.step.toNat + (1 : BitVec 4).toNat < 2 ^ 4 := by
    show s.step.toNat + 1 < 16
    omega
  show (s.step + 1).toNat = _
  rw [BitVec.toNat_add_of_lt room, hstep, List.length_append]
  rfl

/-- Several steps of an instruction, taken apart at the first. -/
theorem execTimes_of_next {i : Instr} {s t : State} (h : exec i s = .next t) (n : Nat) : execTimes (n + 1) i s = execTimes n i t := by
  rw [execTimes, h]

/-- The steps of a running command from here to its completion, by induction on what is left of its script. -/
theorem execTimes_discarding {i : Instr} (es : List Event) (s : State) (hr : s.Runs i es) (hd : ∀ e ∈ es, e.Discards)
    (ha : ∀ k < transferCount es, ∃ r, s.answerAt k = .byte r) :
    ∃ l : List TraceEvent, l.map TraceEvent.request = es.map Event.request ∧
      execTimes (es.length + 1) i s = .next (completeFor s.cmd (afterWrites es l s)) := by
  induction es generalizing s with
  | nil => exact ⟨[], rfl, by rw [afterWrites_nil]; exact execTimes_of_next hr.exec_nil 0⟩
  | cons e es ih =>
    have hn := transferCount_cons e es
    obtain ⟨x, hx, hissue⟩ := issue_discarding (hd e List.mem_cons_self) (s := s)
      ((Nat.eq_zero_or_pos _).imp_right fun hpos => ha 0 (by omega))
    obtain ⟨l, hl, hrun⟩ := ih (afterWrites [e] [x] s) (hr.after x) (fun f hf => hd f (List.mem_cons_of_mem e hf))
      (fun k hk => by rw [answerAt_afterWrites]; exact ha _ (by omega))
    refine ⟨x :: l, by rw [List.map_cons, List.map_cons, hx, hl], ?_⟩
    rw [← afterWrites_cons, List.length_cons, execTimes_of_next (hr.exec_cons.trans (congrArg _ hissue))]
    exact hrun

/-- WRITE_OP keeps no received byte, and transfers three (40_frame_codec.md R106, R107). -/
theorem discards_writeOp (a : Addr) (v : Data) : ∀ e ∈ writeOp a v, e.Discards := by
  intro e he j hj
  subst hj
  simp [writeOp, sendBytes] at he

theorem transferCount_writeOp (a : Addr) (v : Data) : transferCount (writeOp a v) = 3 := rfl

theorem discards_trig (t : Data) : ∀ e ∈ trig t, e.Discards := fun e he =>
  (List.mem_append.mp he).elim (discards_writeOp _ _ e) (discards_writeOp _ _ e)

theorem transferCount_trig (t : Data) : transferCount (trig t) = 6 := rfl

/-- The script of a command that is no read is one WRITE_OP or one TRIG (40_frame_codec.md R116). -/
theorem script_of_write {i : Instr} {c : Code} {arg : Arg} {sc : List Event} (hi : i.command? = some (c, arg)) (hw : isReadCode c = false)
    (hs : script c arg = some sc) : (∃ a v, sc = writeOp a v) ∨ ∃ t, sc = trig t := by
  cases i with
  | applyConfig _ => cases hi; cases hs; exact .inl ⟨_, _, rfl⟩
  | setOutput _ => cases hi; cases hs; exact .inl ⟨_, _, rfl⟩
  | setClear _ => cases hi; cases hs; exact .inl ⟨_, _, rfl⟩
  | triggerUpdate _ => cases hi; cases hs; exact .inr ⟨_, rfl⟩
  | triggerClear _ => cases hi; cases hs; exact .inr ⟨_, rfl⟩
  | triggerReset _ => cases hi; cases hs; exact .inr ⟨_, rfl⟩
  | readConfig _ | getOutput _ | getClear _ => cases hi; cases hw
  | wDac _ | wCtrl _ | wClr _ | wSwctrl _ | rDac | rCtrl | rClr | dummy => cases hi

/-- So it keeps no received byte, and transfers at most six. -/
theorem discards_of_write {i : Instr} {c : Code} {arg : Arg} {sc : List Event} (hi : i.command? = some (c, arg)) (hw : isReadCode c = false)
    (hs : script c arg = some sc) : (∀ e ∈ sc, e.Discards) ∧ transferCount sc ≤ 6 := by
  obtain ⟨a, v, rfl⟩ | ⟨t, rfl⟩ := script_of_write hi hw hs
  · exact ⟨discards_writeOp a v, by rw [transferCount_writeOp]; decide⟩
  · exact ⟨discards_trig t, by rw [transferCount_trig]⟩

/-- A whole command that writes, from idle, with six bytes to be answered. -/
theorem execTimes_write {i : Instr} {c : Code} {arg : Arg} {sc : List Event} (hi : i.command? = some (c, arg)) (hw : isReadCode c = false)
    (hs : script c arg = some sc) {s : State} (hidle : s.seqState = .idle) {bs : List Byte} (hlen : bs.length = 6)
    (hbs : s.answers = bs.map .byte) :
    ∃ l : List TraceEvent, l.map TraceEvent.request = sc.map Event.request ∧
      execTimes (scriptLength c arg + 2) i s = .next (completeWrite (afterWrites sc l (accept c arg s))) := by
  obtain ⟨hd, hn⟩ := discards_of_write hi hw hs
  obtain ⟨l, hl, hrun⟩ := execTimes_discarding sc _ (runs_accept hi hs s) hd fun k hk =>
    ⟨bs[k], by simp [State.answerAt, hbs, show k < bs.length by omega]⟩
  refine ⟨l, hl, ?_⟩
  rw [(script_length hs).2.2, execTimes_of_next ((exec_of_command hi hs s).trans (runCommand_idle hidle))]
  rwa [accept_cmd, completeFor_write hw] at hrun

/-- Settles O43: both runs end in the state `execTimes_write` gives, in which the bytes answered stand in the trace and the answers only. -/
theorem answersToWritesReachNoRegister : Obligations.AnswersToWritesReachNoRegister := by
  intro i c arg s xs ys hi hw hidle hx hy
  obtain ⟨sc, hs⟩ := script_of_command hi
  obtain ⟨l, hl, hrunx⟩ := execTimes_write (s := { s with answers := xs.map .byte }) hi hw hs hidle hx rfl
  obtain ⟨m, hm, hruny⟩ := execTimes_write (s := { s with answers := ys.map .byte }) hi hw hs hidle hy rfl
  refine ⟨_, _, hrunx, hruny, rfl, rfl, ?_⟩
  simp only [completeWrite_trace, afterWrites, accept_trace, List.map_append, hl, hm]

end Sys2Proof.Machine
end

