-- ==== Sys2Proof/Proofs/Configuration.lean ====
section
/-! PROOF. The statements of 41_configuration.md: the linearity-compensation code, its inverse, and the configuration word. -/

namespace Sys2Proof.Machine

/-- Every selector outside the table has the code of selector 0 (41_configuration.md R130). -/
theorem lc_of_other {sel : Arg} (h1 : sel ≠ 1) (h2 : sel ≠ 2) (h3 : sel ≠ 3) (h4 : sel ≠ 4) : lc sel = 0b0000 := by
  rw [lc, if_neg h1, if_neg h2, if_neg h3, if_neg h4]

/-- The five rows of the table: a selector is one of four numbers, whose code is computed, or none of them, with code 0. -/
theorem selector_cases (sel : Arg) :
    sel = 1 ∨ sel = 2 ∨ sel = 3 ∨ sel = 4 ∨ (sel ≠ 1 ∧ sel ≠ 2 ∧ sel ≠ 3 ∧ sel ≠ 4 ∧ lc sel = 0b0000) := by
  by_cases h : sel = 1 ∨ sel = 2 ∨ sel = 3 ∨ sel = 4
  · tauto
  · simp only [not_or] at h
    obtain ⟨h1, h2, h3, h4⟩ := h
    exact .inr (.inr (.inr (.inr ⟨h1, h2, h3, h4, lc_of_other h1 h2 h3 h4⟩)))

/-- Settles O8: the four rows and the shifted codes are computed; the last row is `lc_of_other`. -/
theorem rangeSelectorGivesCompensationCode : Obligations.RangeSelectorGivesCompensationCode :=
  ⟨rfl, rfl, rfl, rfl, fun _ => lc_of_other, rfl, rfl, rfl, rfl, rfl⟩

/-- The five configuration words, one for each row of the table (41_configuration.md R131). -/
theorem cfga_eq_ite (sel : Arg) : cfga sel =
    if sel = 1 then 0x00252 else if sel = 2 then 0x00292 else if sel = 3 then 0x002D2 else if sel = 4 then 0x00312 else 0x00012 := by
  obtain rfl | rfl | rfl | rfl | ⟨h1, h2, h3, h4, hlc⟩ := selector_cases sel
  · rfl
  · rfl
  · rfl
  · rfl
  · rw [cfga, hlc, if_neg h1, if_neg h2, if_neg h3, if_neg h4]
    rfl

/-- A code of four bits, legal or not, lands in bits 9:6 of the word, so the bits outside are the base's (41_configuration.md R131, R132). -/
theorem base_bits_of_code (c : BitVec 4) : (cfgBase ||| (c.setWidth 20 <<< lcShift)) &&& 0xFFC3F = cfgBase := by
  revert c
  decide

/-- Settles O9: the formula is the definition, the five words are `cfga_eq_ite`, and no code reaches the base bits. -/
theorem configurationWordOfEachSelector : Obligations.ConfigurationWordOfEachSelector :=
  ⟨fun _ => rfl, cfga_eq_ite, fun sel => base_bits_of_code (lc sel), rfl⟩

/-- LCINV as a table over the sixteen codes (41_configuration.md R135). -/
theorem lcinv_eq_ite (c : BitVec 4) : lcinv c =
    if c = 0b0000 then some 0 else if c = 0b1001 then some 1 else if c = 0b1010 then some 2
    else if c = 0b1011 then some 3 else if c = 0b1100 then some 4 else none := by
  revert c
  decide

/-- LC takes the selector of a legal code back to the code (41_configuration.md R135). -/
theorem lc_of_lcinv {c : BitVec 4} {sel : Arg} (h : lcinv c = some sel) : lc sel = c := by
  have legal := (lcinv_isSome_iff c).1 (Option.isSome_of_eq_some h)
  simp only [List.mem_cons, List.not_mem_nil, or_false] at legal
  obtain rfl | rfl | rfl | rfl | rfl := legal <;> cases h <;> rfl

/-- LCINV of a selector's code is the selector where the table names it, and the canonical selector 0 otherwise (41_configuration.md R135). -/
theorem lcinv_lc (sel : Arg) : lcinv (lc sel) = some (if sel = 1 ∨ sel = 2 ∨ sel = 3 ∨ sel = 4 then sel else 0) := by
  obtain rfl | rfl | rfl | rfl | ⟨h1, h2, h3, h4, hlc⟩ := selector_cases sel
  · rfl
  · rfl
  · rfl
  · rfl
  · have other : ¬(sel = 1 ∨ sel = 2 ∨ sel = 3 ∨ sel = 4) := by simp only [h1, h2, h3, h4, or_self, not_false_eq_true]
    rw [hlc, if_neg other]
    rfl

/-- Settles O12: LCINV's table, and LC and LCINV undoing each other on the legal codes and on the selectors of the table. -/
theorem selectorIsRecoveredFromLegalCodes : Obligations.SelectorIsRecoveredFromLegalCodes :=
  ⟨lcinv_eq_ite, fun _ _ => lc_of_lcinv, lcinv_lc⟩

end Sys2Proof.Machine
end

