-- ==== Sys2Proof/Proofs/Triggers.lean ====
section
/-! PROOF. The statement of 42_triggers.md: the values written to the software-control register. A script is its command's frames one after the
other, a frame whose first byte has top nibble 4 is a W_SWCTRL frame, and only the triggers have W_SWCTRL frames. -/

namespace Sys2Proof.Machine

/-! ### A script, taken apart into frames -/

/-- A command's script is its frames' events (30_encoding.md R79). -/
theorem script_eq_commandFrames {i : Instr} {c : Code} {arg : Arg} (h : i.command? = some (c, arg)) :
    script c arg = some ((commandFrames i).flatMap frameEvents) := by
  cases i with
  | applyConfig _ | readConfig _ | triggerUpdate _ | triggerClear _ | triggerReset _ | setOutput _ | getOutput _ | setClear _ | getClear _ =>
    cases h; rfl
  | wDac _ | wCtrl _ | wClr _ | wSwctrl _ | rDac | rCtrl | rClr | dummy => cases h

/-- A code with a script stands for a command. -/
theorem command_of_script {c : Code} {arg : Arg} {sc : List Event} (h : script c arg = some sc) : ∃ i : Instr, i.command? = some (c, arg) := by
  cases hc : commandOfCode c arg with
  | ok i => exact ⟨i, commandOfCode_eq_ok hc⟩
  | error e =>
    have none_of_error := (error_of_decodeCommand ((decodeCommand_append c arg).trans hc)).2
    cases h.symm.trans none_of_error

/-- A frame kind's events are three sent bytes or the readback's three captures (40_frame_codec.md R106, R108). -/
theorem frameEvents_cases {f : Instr} (h : f.command? = none) : (∃ g, frameEvents f = sendBytes g) ∨ frameEvents f = readbackPhase := by
  cases f with
  | wDac _ | wCtrl _ | wClr _ | wSwctrl _ | rDac | rCtrl | rClr => exact .inl ⟨_, rfl⟩
  | dummy => exact .inr rfl
  | applyConfig _ | readConfig _ | triggerUpdate _ | triggerClear _ | triggerReset _ | setOutput _ | getOutput _ | setClear _ | getClear _ =>
    cases h

/-- The frames of a command are frame kinds. -/
theorem command?_of_mem_commandFrames {i : Instr} : ∀ f ∈ commandFrames i, f.command? = none := by
  cases i <;> simp [commandFrames, Instr.command?]

/-- SEL stands only at the start of a frame (20_memory.md R54). -/
theorem place_of_sel {f : Instr} (hf : f.command? = none) {k : Nat} (h : (frameEvents f)[k]? = some .sel) : k = 0 := by
  obtain ⟨g, hg⟩ | hg := frameEvents_cases hf <;> rw [hg] at h <;>
    match k with
    | 0 => rfl
    | 1 | 2 | 3 | 4 | _ + 5 => cases h

/-- The three transfers after place `k` send the bytes of `g`. -/
def SendsAfter (sc : List Event) (k : Nat) (g : Bytes3) : Prop :=
  sc[k + 1]? = some (.tx g.byte0) ∧ sc[k + 2]? = some (.tx g.byte1) ∧ sc[k + 3]? = some (.tx g.byte2)

/-- Where a sent byte follows SEL, one of the frames is sent there whole. -/
theorem sent_frame_of_sel {l : List Instr} (hl : ∀ f ∈ l, f.command? = none) {k : Nat} {b : Byte}
    (hsel : (l.flatMap frameEvents)[k]? = some .sel) (hb : (l.flatMap frameEvents)[k + 1]? = some (.tx b)) :
    ∃ f ∈ l, ∃ g : Bytes3, frameEvents f = sendBytes g ∧ SendsAfter (l.flatMap frameEvents) k g := by
  induction l generalizing k with
  | nil => cases hsel
  | cons f l ih =>
    obtain ⟨hf, hl⟩ := List.forall_mem_cons.mp hl
    rw [List.flatMap_cons] at hsel hb ⊢
    have past_f (j : Nat) : (frameEvents f ++ l.flatMap frameEvents)[j + 5]? = (l.flatMap frameEvents)[j]? := by
      rw [List.getElem?_append_right (by rw [length_frameEvents hf]; omega), length_frameEvents hf, Nat.add_sub_cancel]
    by_cases inside_f : k < 5
    · rw [List.getElem?_append_left (by rwa [length_frameEvents hf])] at hsel
      obtain rfl := place_of_sel hf hsel
      obtain ⟨g, hg⟩ | hg := frameEvents_cases hf <;> rw [hg] at hb ⊢
      · exact ⟨f, List.mem_cons_self, g, hg, rfl, rfl, rfl⟩
      · cases hb
    · obtain ⟨j, rfl⟩ := Nat.exists_eq_add_of_le' (Nat.le_of_not_lt inside_f)
      obtain ⟨f', mem, g, hg, h0, h1, h2⟩ := ih hl ((past_f j).symm.trans hsel) ((past_f (j + 1)).symm.trans hb)
      exact ⟨f', List.mem_cons_of_mem f mem, g, hg, (past_f (j + 1)).trans h0, (past_f (j + 2)).trans h1, (past_f (j + 3)).trans h2⟩

/-! ### The frames to the software-control register -/

/-- The top nibble of a frame's first byte is its direction bit and its address (40_frame_codec.md R101). -/
theorem fenc_top_nibble (rw : BitVec 1) (a : Addr) (v : Nat) : (fenc rw a v).byte0.extractLsb' 4 4 = rw ++ a := by
  rw [fenc_byte0]
  exact extract_upper (rw ++ a) _

theorem sendBytes_injective : Function.Injective sendBytes := by
  rintro ⟨_, _, _⟩ ⟨_, _, _⟩ h
  cases h
  rfl

/-- Of the frames that send bytes, only W_SWCTRL has top nibble 4 (30_encoding.md R80). -/
theorem wSwctrl_of_top_nibble {f : Instr} {g : Bytes3} (hg : frameEvents f = sendBytes g) (h4 : g.byte0.extractLsb' 4 4 = 0x4#4) :
    ∃ d : Data, f = .wSwctrl d ∧ g = fenc dirWrite (amux 3) d.toNat := by
  cases f with
  | wSwctrl d => exact ⟨d, rfl, (sendBytes_injective hg).symm⟩
  | wDac _ | wCtrl _ | wClr _ | rDac | rCtrl | rClr =>
    obtain rfl := sendBytes_injective hg
    rw [fenc_top_nibble] at h4
    exact absurd h4 (by decide)
  | dummy => cases hg
  | applyConfig _ | readConfig _ | triggerUpdate _ | triggerClear _ | triggerReset _ | setOutput _ | getOutput _ | setClear _ | getClear _ =>
    cases hg

/-- A trigger's W_SWCTRL frame carries its flag or the idle value (42_triggers.md R161). -/
theorem flag_or_idle {d t : Data} (h : Instr.wSwctrl d ∈ [.wSwctrl t, .wSwctrl 0x00000]) : d = t ∨ d = 0x00000 := by
  simpa using h

/-- Only the triggers write the software-control register, and only the four values (42_triggers.md R160). -/
theorem trigger_of_wSwctrl {i : Instr} {d : Data} (h : .wSwctrl d ∈ commandFrames i) :
    d ∈ triggerWords ∧ ∃ arg, i = .triggerUpdate arg ∨ i = .triggerClear arg ∨ i = .triggerReset arg := by
  cases i with
  | triggerUpdate arg => obtain rfl | rfl := flag_or_idle h <;> exact ⟨by decide, arg, .inl rfl⟩
  | triggerClear arg => obtain rfl | rfl := flag_or_idle h <;> exact ⟨by decide, arg, .inr (.inl rfl)⟩
  | triggerReset arg => obtain rfl | rfl := flag_or_idle h <;> exact ⟨by decide, arg, .inr (.inr rfl)⟩
  | _ => simp [commandFrames] at h

/-- The three bytes of a W_SWCTRL frame with a trigger value: the third is the value, which has at most one bit set. -/
theorem bytes_of_triggerWord {d : Data} (h : d ∈ triggerWords) :
    d &&& (d - 1) = 0 ∧ ∃ t ∈ [0x01#8, 0x02#8, 0x04#8, 0x00#8], fenc dirWrite (amux 3) d.toNat = ⟨0x40, 0x00, t⟩ ∧ t &&& (t - 1) = 0 := by
  simp only [triggerWords, List.mem_cons, List.not_mem_nil, or_false] at h
  obtain rfl | rfl | rfl | rfl := h
  · exact ⟨rfl, 0x01, by decide, rfl, rfl⟩
  · exact ⟨rfl, 0x02, by decide, rfl, rfl⟩
  · exact ⟨rfl, 0x04, by decide, rfl, rfl⟩
  · exact ⟨rfl, 0x00, by decide, rfl, rfl⟩

/-- Settles O25: the frame at `k` is one of the command's, by its top nibble W_SWCTRL, so the command is a trigger and the value one of four. -/
theorem softwareControlGetsOnlyTriggerValues : Obligations.SoftwareControlGetsOnlyTriggerValues := by
  refine ⟨rfl, rfl, rfl, rfl, fun c arg sc k b hs hsel hb h4 => ?_, fun i d h => ?_⟩
  · obtain ⟨i, hi⟩ := command_of_script hs
    obtain rfl := Option.some.inj ((script_eq_commandFrames hi).symm.trans hs)
    obtain ⟨f, hf, g, hg, h0, h1, h2⟩ := sent_frame_of_sel command?_of_mem_commandFrames hsel hb
    obtain rfl : b = g.byte0 := Event.tx.inj (Option.some.inj (hb.symm.trans h0))
    obtain ⟨d, rfl, rfl⟩ := wSwctrl_of_top_nibble hg h4
    obtain ⟨hd, _, trigger⟩ := trigger_of_wSwctrl hf
    obtain ⟨-, t, ht, bytes, one_bit⟩ := bytes_of_triggerWord hd
    rw [bytes] at h1 h2 ⊢
    refine ⟨?_, rfl, h1, t, h2, ht, one_bit⟩
    obtain rfl | rfl | rfl := trigger <;> cases hi <;> decide
  · obtain ⟨hd, trigger⟩ := trigger_of_wSwctrl h
    exact ⟨hd, (bytes_of_triggerWord hd).1, trigger⟩

end Sys2Proof.Machine
end

