-- ==== Sys2Proof/Proofs/Exceptions.lean ====
section
/-! PROOF. The statement of 60_exceptions.md: when the one exception is raised. A step either issues the due event, and only a failed transfer
raises the exception there; or no event is due, and the step waits, accepts or completes, which raises nothing. -/

namespace Sys2Proof.Machine

/-! ### The due event -/

theorem dueEvent_of_idle {s : State} (h : s.seqState = .idle) : s.dueEvent = none := by
  simp only [State.dueEvent, h]

theorem dueEvent_of_script {s : State} {sc : List Event} (hb : s.seqState = .busy) (hi : s.inject = none) (hs : script s.cmd s.arg = some sc) :
    s.dueEvent = sc[s.step.toNat]? := by
  simp only [State.dueEvent, hb, hi, hs, Option.getD_some]

theorem dueEvent_of_placed {s : State} {w : FrameWord} {f : Instr} (hb : s.seqState = .busy) (hi : s.inject = some w)
    (hf : decodeFrame w = .ok f) (hm : s.mayIssue w = true) : s.dueEvent = (frameEvents f)[s.step.toNat % 5]? := by
  simp only [State.dueEvent, hb, hi, hf, hm, if_true]

/-- A step that answers a next state issues the due event; where none is due it waits, accepts a command or completes one. -/
theorem step_issues_dueEvent {s t : State} (hr : s.resetAsserted = false) (h : step s = .next t) :
    (∃ e inj, s.dueEvent = some e ∧ t = issue e { s.sampleReset with inject := inj }) ∨
    (s.dueEvent = none ∧
      (t = s.sampleReset ∨ (∃ c arg u, t = accept c arg u) ∨ t = completeFor s.cmd s.sampleReset)) := by
  obtain ⟨hidle, -, ht⟩ | ⟨c, arg, rest, hidle, -, -, ht⟩ | ⟨sc, e, hb, hi, hs, he, ht⟩ | ⟨sc, hb, hi, hs, hend, ht⟩ |
    ⟨w, f, e, hb, hi, hf, hm, -, he, ht⟩ := step_cases hr h
  · exact .inr ⟨dueEvent_of_idle hidle, .inl ht⟩
  · exact .inr ⟨dueEvent_of_idle hidle, .inr (.inl ⟨c, arg, _, ht⟩)⟩
  · exact .inl ⟨e, s.inject, (dueEvent_of_script hb hi hs).trans he, ht⟩
  · have past_end : sc[s.step.toNat]? = none := List.getElem?_eq_none hend.ge
    exact .inr ⟨(dueEvent_of_script hb hi hs).trans past_end, .inr (.inr ht)⟩
  · exact .inl ⟨e, _, (dueEvent_of_placed hb hi hf hm).trans he, ht⟩

/-! ### What raises the exception -/

theorem completeFor_err (c : Code) (s : State) : (completeFor c s).err = s.err := by
  rw [completeFor_eq]

/-- An event that exchanges no byte is a chip-select request, no `Xfer` (60_exceptions.md R201). -/
theorem request_ne_xfer {e : Event} (h : e.exchange = none) (b : Byte) : e.request ≠ .xfer b := by
  cases e with
  | sel | desel => exact nofun
  | tx _ | cap _ => cases h

/-- Issuing an event raises the exception just where the event is a transfer that is answered FAIL (60_exceptions.md R201). -/
theorem issue_err_iff (e : Event) {s : State} (herr : s.err = false) :
    (issue e s).err = true ↔ (∃ b, e.request = .xfer b) ∧ ∃ info, s.answerAt 0 = .fail info := by
  obtain ⟨hx, ht, -⟩ | ⟨b, keep, r, hx, -, ha, ht⟩ | ⟨b, keep, info, -, hreq, ha, ht⟩ := issue_cases e s
  · have no_xfer : ¬ ∃ b, e.request = .xfer b := fun ⟨b, hb⟩ => request_ne_xfer hx b hb
    simp [ht, herr, no_xfer]
  · rw [exchange_keep hx] at ht
    simp [ht, herr, ha]
  · simp [ht, hreq, ha]

/-- Settles O52: where an event is due, by `issue_err_iff`; where none is, waiting and completing keep ERR and accepting clears it. -/
theorem failureIsRaisedOnlyByAFailedTransfer : Obligations.FailureIsRaisedOnlyByAFailedTransfer := by
  intro s t hr herr h
  obtain ⟨e, inj, hdue, rfl⟩ | ⟨hdue, ht⟩ := step_issues_dueEvent hr h
  · have same_answer : ({ s.sampleReset with inject := inj } : State).answerAt 0 = s.answerAt 0 := rfl
    rw [issue_err_iff e (s := { s.sampleReset with inject := inj }) herr, same_answer]
    simp [hdue]
  · have not_raised : t.err = false := by
      obtain rfl | ⟨c, arg, u, rfl⟩ | rfl := ht
      · exact herr
      · exact accept_err c arg u
      · exact (completeFor_err _ _).trans herr
    simp [hdue, not_raised]

end Sys2Proof.Machine
end

section
/-! PROOF. The remaining statements about the combinational units. -/

namespace Sys2Proof.Machine

/-! ### FENC and FDEC (40_frame_codec.md R102, R104, R105) -/

/-- A direction shifted to bit 7, an address shifted to bits 6:4 and a nibble share no bit, whatever they are (40_frame_codec.md R102). -/
theorem direction_and_address (rw : BitVec 1) (a : Addr) : (rw.setWidth 8 <<< 7 : Byte) &&& (a.setWidth 8 <<< 4) = 0 := by
  revert rw a
  decide

theorem direction_and_nibble (rw : BitVec 1) (n : BitVec 4) : (rw.setWidth 8 <<< 7 : Byte) &&& n.setWidth 8 = 0 := by
  revert rw n
  decide

theorem address_and_nibble (a : Addr) (n : BitVec 4) : (a.setWidth 8 <<< 4 : Byte) &&& n.setWidth 8 = 0 := by
  revert a n
  decide

/-- Settles O4: the three parts are disjoint for all values of the direction, the address and the nibble; the concatenation is `fenc_byte0`. -/
theorem fencPartsAreDisjoint : Obligations.FencPartsAreDisjoint := fun rw a v =>
  ⟨direction_and_address rw a, direction_and_nibble rw _, address_and_nibble a _, fenc_byte0 rw a v⟩

/-- FDEC takes from an encoded frame the truncated value, whatever the direction and the address. -/
@[simp] theorem fdec_fenc (rw : BitVec 1) (a : Addr) (v : Nat) : fdec (fenc rw a v) = trunc20 v :=
  (fdec_eq_append _).trans (fenc_data rw a v)

/-- Settles O6: decoding gives the truncation (`fdec_fenc`), and that is the mask (`trunc20KeepsTheLowTwentyBits`). -/
theorem decodingAnEncodedWriteTruncates : Obligations.DecodingAnEncodedWriteTruncates := by
  intro a v
  rw [fdec_fenc]
  exact (trunc20KeepsTheLowTwentyBits v).1

/-- Settles O7: the decoded value is the encoded one's remainder by 2^20 (`fdec_fenc`), which encodes to the same bytes (`fenc_mod`). -/
theorem encodeDecodeEncodeIsEncode : Obligations.EncodeDecodeEncodeIsEncode := by
  intro rw a v
  rw [fdec_fenc, trunc20_toNat, fenc_mod]

/-! ### CFGA and CFGD (41_configuration.md R133, R134) -/

/-- CFGA's word is one of the five. -/
theorem cfga_mem_configWords (sel : Arg) : cfga sel ∈ configWords := by
  obtain rfl | rfl | rfl | rfl | ⟨-, -, -, -, hlc⟩ := selector_cases sel
  · decide
  · decide
  · decide
  · decide
  · rw [cfga, hlc]
    decide

/-- Each of the five words has its reserved bits clear and a legal LINCOMP code (30_encoding.md R84, R85). -/
theorem configWords_allowed {d : Data} (h : d ∈ configWords) :
    d.extractLsb' 0 1 = 0 ∧ d.extractLsb' 10 10 = 0 ∧ d.extractLsb' 6 4 ∈ [0b0000#4, 0b1001#4, 0b1010#4, 0b1011#4, 0b1100#4] := by
  simp only [configWords, List.mem_cons, List.not_mem_nil, or_false] at h
  obtain rfl | rfl | rfl | rfl | rfl := h <;> decide

/-- Settles O10: CFGA's word is one of the five, and these are checked one by one. -/
theorem configurationWordIsNeverUndefined : Obligations.ConfigurationWordIsNeverUndefined := by
  intro sel
  have one_of_five := cfga_mem_configWords sel
  obtain ⟨bit0, high, legal⟩ := configWords_allowed one_of_five
  exact ⟨bit0, high, legal, (lcinv_isSome_iff _).2 legal, one_of_five⟩

/-- The fields of a control word, put together again; each joins the bits below to the next field above. -/
theorem append_of_cfgd (w : Data) :
    ((cfgd w).rsvdHi ++ (cfgd w).lincomp ++ (cfgd w).swdis ++ (cfgd w).coding ++ (cfgd w).tri ++ (cfgd w).gclamp ++ (cfgd w).amp ++
      (cfgd w).rsvdLo : Data) = w := by
  simp only [cfgd, BitVec.extractLsb'_append_extractLsb'_eq_extractLsb']
  exact BitVec.extractLsb'_eq_self

/-- Settles O11: the fields are the word (`append_of_cfgd`); the selector is LCINV of LINCOMP by definition; the example is computed. -/
theorem disassemblerSplitsTheWholeWord : Obligations.DisassemblerSplitsTheWholeWord :=
  ⟨fun w => ⟨append_of_cfgd w, rfl⟩, by decide⟩

end Sys2Proof.Machine
end

section
/-! PROOF. The remaining statements of 30_encoding.md: the decoder is the inverse of the encoder, on command words and on frames. -/

namespace Sys2Proof.Machine

/-! ### Command words (30_encoding.md R74, R81, R83) -/

/-- A command's own code and argument stand for it. -/
theorem commandOfCode_of_command {i : Instr} {c : Code} {arg : Arg} (h : i.command? = some (c, arg)) : commandOfCode c arg = .ok i := by
  cases i with
  | applyConfig _ | readConfig _ | triggerUpdate _ | triggerClear _ | triggerReset _ | setOutput _ | getOutput _ | setClear _ | getClear _ =>
    cases h; rfl
  | _ => cases h

/-- A command word decodes to the command with its code and argument, and to nothing else. -/
theorem decode_cmd_iff {c : Code} {arg : Arg} {i : Instr} : decode (.cmd (c ++ arg)) = .ok i ↔ i.command? = some (c, arg) := by
  rw [decode, decodeCommand_append]
  exact ⟨commandOfCode_eq_ok, commandOfCode_of_command⟩

/-- A command's word is its code and its argument joined. -/
theorem encode_of_command {i : Instr} {c : Code} {arg : Arg} (h : i.command? = some (c, arg)) : encode i = .cmd (c ++ arg) := by
  cases i with
  | applyConfig _ | readConfig _ | triggerUpdate _ | triggerClear _ | triggerReset _ | setOutput _ | getOutput _ | setClear _ | getClear _ =>
    cases h; rfl
  | _ => cases h

/-- The reserved codes are those outside 1 to 9. -/
theorem reserved_iff (c : Code) : (c = 0 ∨ 10 ≤ c.toNat) ↔ ¬ (1 ≤ c.toNat ∧ c.toNat ≤ 9) := by
  have zero_iff : c = 0 ↔ c.toNat = 0 := ⟨fun h => congrArg BitVec.toNat h, fun h => BitVec.eq_of_toNat_eq h⟩
  rw [zero_iff]
  omega

/-- The codes 1 to 9 have a script. -/
theorem script_of_known {c : Code} (arg : Arg) (h : 1 ≤ c.toNat ∧ c.toNat ≤ 9) : ∃ sc, script c arg = some sc := by
  obtain ⟨low, high⟩ := h
  unfold script
  interval_cases c.toNat <;> exact ⟨_, rfl⟩

/-- And no other code has one. -/
theorem script_eq_none_iff {c : Code} {arg : Arg} : script c arg = none ↔ c = 0 ∨ 10 ≤ c.toNat := by
  refine ⟨fun none => (reserved_iff c).2 fun known => ?_, scriptOfEachCommand.1 c arg⟩
  obtain ⟨sc, some⟩ := script_of_known arg known
  cases none.symm.trans some

/-- A known code is some command's. -/
theorem command_of_known {c : Code} (arg : Arg) (h : 1 ≤ c.toNat ∧ c.toNat ≤ 9) : ∃ i : Instr, i.command? = some (c, arg) := by
  obtain ⟨sc, hs⟩ := script_of_known arg h
  exact command_of_script hs

/-- A command's code is known. -/
theorem known_of_command {i : Instr} {c : Code} {arg : Arg} (h : i.command? = some (c, arg)) : 1 ≤ c.toNat ∧ c.toNat ≤ 9 := by
  obtain ⟨sc, hs⟩ := script_of_command h
  exact (script_length hs).1

/-- The decoder rejects a command word exactly where its code is reserved, and names the code. -/
theorem decode_cmd_error_iff {c : Code} {arg : Arg} :
    decode (.cmd (c ++ arg)) = .error (.reservedCommand c) ↔ c = 0 ∨ 10 ≤ c.toNat := by
  refine ⟨fun h => script_eq_none_iff.1 (error_of_decodeCommand h).2, fun reserved => ?_⟩
  cases h : decode (.cmd (c ++ arg)) with
  | ok i => exact absurd (known_of_command (decode_cmd_iff.1 h)) ((reserved_iff c).1 reserved)
  | error e => rw [(error_of_decodeCommand h).1]

/-- Settles O16, by `decode_cmd_iff` and `decode_cmd_error_iff`. -/
theorem commandWordsDecodeByTheirCode : Obligations.CommandWordsDecodeByTheirCode :=
  fun _ _ => ⟨fun _ => decode_cmd_iff, decode_cmd_error_iff⟩

/-! ### Frames (30_encoding.md R79, R80, R82) -/

/-- The decoder takes a frame kind's word back to the kind, with every data value. -/
theorem decodeFrame_of_encode {f : Instr} {w : FrameWord} (h : encode f = .frame w) : decodeFrame w = .ok f := by
  cases f with
  | wDac _ | wCtrl _ | wClr _ | wSwctrl _ =>
    cases h
    simp only [decodeFrame, kind_of_append, data_of_append]
    rfl
  | rDac | rCtrl | rClr | dummy => cases h; rfl
  | _ => cases h

/-- A frame is the number of its kind and its data joined. -/
theorem frameWord_of_kind {w : FrameWord} {k : Nat} (h : (w.extractLsb' 20 4).toNat = k) : BitVec.ofNat 4 k ++ w.extractLsb' 0 20 = w := by
  rw [← h, BitVec.ofNat_toNat, BitVec.setWidth_eq]
  exact frameWord_fields w

/-- What decodes is the encoder's word: a write kind's data is a variable, the other kinds are decoded with data 0 only. -/
theorem encode_of_decodeFrame {f : Instr} {w : FrameWord} (h : decodeFrame w = .ok f) : encode f = .frame w := by
  simp only [decodeFrame] at h
  split at h
  case h_1 hk | h_2 hk | h_3 hk | h_4 hk =>
    cases h
    exact congrArg CodeWord.frame (frameWord_of_kind hk)
  case h_5 hk | h_6 hk | h_7 hk | h_8 hk =>
    split at h
    case isTrue data_zero =>
      cases h
      have hw := frameWord_of_kind hk
      rw [data_zero] at hw
      exact congrArg CodeWord.frame hw
    case isFalse => cases h
  case h_9 => cases h

theorem decodeFrame_iff {f : Instr} {w : FrameWord} : decodeFrame w = .ok f ↔ encode f = .frame w :=
  ⟨encode_of_decodeFrame, decodeFrame_of_encode⟩

/-- A word that no frame kind encodes to is rejected, naming it. -/
theorem decodeFrame_error {w : FrameWord} (h : ∀ f, encode f ≠ .frame w) : decodeFrame w = .error (.reservedFrame w) := by
  cases hd : decodeFrame w with
  | ok f => exact absurd (encode_of_decodeFrame hd) (h f)
  | error e => rw [error_of_decodeFrame hd]

/-- A frame kind is no command (30_encoding.md R89). -/
theorem command?_of_encode {f : Instr} {w : FrameWord} (h : encode f = .frame w) : f.command? = none :=
  command?_of_decodeFrame (decodeFrame_of_encode h)

/-- An instruction that is no command encodes to a frame. -/
theorem encode_of_frame {f : Instr} (h : f.command? = none) : ∃ w, encode f = .frame w := by
  cases f with
  | wDac _ | wCtrl _ | wClr _ | wSwctrl _ | rDac | rCtrl | rClr | dummy => exact ⟨_, rfl⟩
  | _ => cases h

/-- A frame kind has one of the eight top nibbles (30_encoding.md R79). -/
theorem kind_of_encode {f : Instr} {w : FrameWord} (h : encode f = .frame w) :
    w.extractLsb' 20 4 ∈ [0#4, 1#4, 2#4, 3#4, 4#4, 9#4, 10#4, 11#4] := by
  cases f with
  | wDac _ | wCtrl _ | wClr _ | wSwctrl _ =>
    cases h
    rw [kind_of_append]
    decide
  | rDac | rCtrl | rClr | dummy => cases h; decide
  | _ => cases h

/-- A command phase and DUMMY have no data (log 18). -/
theorem data_of_encode {f : Instr} {w : FrameWord} (h : encode f = .frame w) (hk : w.extractLsb' 20 4 ∈ [0x0#4, 0x9#4, 0xA#4, 0xB#4]) :
    w.extractLsb' 0 20 = 0 := by
  cases f with
  | wDac _ | wCtrl _ | wClr _ | wSwctrl _ =>
    cases h
    rw [kind_of_append] at hk
    exact absurd hk (by decide)
  | rDac | rCtrl | rClr | dummy => cases h; decide
  | _ => cases h

/-- So one with data is rejected. -/
theorem decodeFrame_error_of_data {n : BitVec 4} (hn : n ∈ [0x0#4, 0x9#4, 0xA#4, 0xB#4]) {d : Data} (hd : d ≠ 0) :
    decode (.frame (n ++ d)) = .error (.reservedFrame (n ++ d)) := by
  refine decodeFrame_error fun f hf => hd ?_
  have data_zero := data_of_encode hf (by rwa [kind_of_append])
  rwa [data_of_append] at data_zero

/-- Settles O17: a frame kind has one of the eight top nibbles, and data only where it writes; every other word is rejected. -/
theorem reservedFramesAreRejected : Obligations.ReservedFramesAreRejected := by
  have other_kind (w : FrameWord) (h : w.extractLsb' 20 4 ∉ [0#4, 1#4, 2#4, 3#4, 4#4, 9#4, 10#4, 11#4]) :
      decode (.frame w) = .error (.reservedFrame w) := decodeFrame_error fun _ hf => h (kind_of_encode hf)
  refine ⟨other_kind, fun d => other_kind _ (by rw [kind_of_append]; decide), fun d hd => ?_, fun w i h => ?_⟩
  · exact ⟨decodeFrame_error_of_data (by decide) hd, decodeFrame_error_of_data (by decide) hd, decodeFrame_error_of_data (by decide) hd,
      decodeFrame_error_of_data (by decide) hd⟩
  · have hw := encode_of_decodeFrame h
    exact ⟨kind_of_encode hw, command?_of_encode hw⟩

/-! ### Both encodings -/

/-- Settles O13: a command by `decode_cmd_iff`, a frame kind by `decodeFrame_iff`. -/
theorem decodeOfEncodeIsTheInstruction : Obligations.DecodeOfEncodeIsTheInstruction := by
  intro i
  cases hc : i.command? with
  | some p =>
    rw [encode_of_command hc]
    exact decode_cmd_iff.2 hc
  | none =>
    obtain ⟨w, hw⟩ := encode_of_frame hc
    rw [hw]
    exact decodeFrame_iff.2 hw

/-- Settles O14: the converse directions of the same two equivalences. -/
theorem encodeOfDecodeIsTheWord : Obligations.EncodeOfDecodeIsTheWord := by
  rintro (w | w) i h
  · rw [← commandWord_fields w] at h ⊢
    exact encode_of_command (decode_cmd_iff.1 h)
  · exact decodeFrame_iff.1 h

/-- Settles O18: the eight words are decoded. -/
theorem sampleWordsDecode : Obligations.SampleWordsDecode := by
  unfold Obligations.SampleWordsDecode
  decide

/-! ### The bytes of a frame (30_encoding.md R70, 40_frame_codec.md R101) -/

/-- A frame's three bytes, by its kind and its data. -/
theorem frameBytes_append (n : BitVec 4) (d : Data) :
    frameBytes (n ++ d) = ⟨n ++ d.extractLsb' 16 4, d.extractLsb' 8 8, d.extractLsb' 0 8⟩ := by
  have first : (n ++ d : FrameWord).extractLsb' 16 8 = n ++ d.extractLsb' 16 4 := by
    apply BitVec.eq_of_getLsbD_eq
    intro k hk
    rw [BitVec.getLsbD_extractLsb', BitVec.getLsbD_append, BitVec.getLsbD_append, BitVec.getLsbD_extractLsb']
    by_cases h : k < 4
    · simp [h, show 16 + k < 20 by omega, show k < 8 by omega]
    · simp [h, show ¬ 16 + k < 20 by omega, show k < 8 by omega, show 16 + k - 20 = k - 4 by omega]
  rw [frameBytes, first, BitVec.extractLsb'_append_eq_of_add_le (by decide), BitVec.extractLsb'_append_eq_of_add_le (by decide)]

/-- FENC's bytes are those of the frame with this direction, address and data. -/
theorem fenc_eq_frameBytes (rw : BitVec 1) (a : Addr) (d : Data) : fenc rw a d.toNat = frameBytes ((rw ++ a : BitVec 4) ++ d) := by
  have hd : trunc20 d.toNat = d := by rw [trunc20_eq_ofNat, BitVec.ofNat_toNat, BitVec.setWidth_eq]
  have first := fenc_byte0 rw a d.toNat
  rw [hd] at first
  rw [frameBytes_append, ← first, fenc, hd]

/-- The three bytes of a frame, joined, are the frame. -/
theorem append_of_frameBytes (w : FrameWord) : ((frameBytes w).byte0 ++ (frameBytes w).byte1 ++ (frameBytes w).byte2 : FrameWord) = w := by
  simp only [frameBytes, BitVec.extractLsb'_append_extractLsb'_eq_extractLsb']
  exact BitVec.extractLsb'_eq_self

/-- A frame kind other than DUMMY sends its three bytes. -/
theorem frameEvents_eq_sendBytes {f : Instr} {w : FrameWord} (h : encode f = .frame w) (hf : f ≠ .dummy) :
    frameEvents f = sendBytes (frameBytes w) := by
  cases f with
  | wDac d => cases h; exact congrArg sendBytes (fenc_eq_frameBytes dirWrite (amux 0) d)
  | wCtrl d => cases h; exact congrArg sendBytes (fenc_eq_frameBytes dirWrite (amux 1) d)
  | wClr d => cases h; exact congrArg sendBytes (fenc_eq_frameBytes dirWrite (amux 2) d)
  | wSwctrl d => cases h; exact congrArg sendBytes (fenc_eq_frameBytes dirWrite (amux 3) d)
  | rDac | rCtrl | rClr => cases h; rfl
  | dummy => exact absurd rfl hf
  | _ => cases h

/-- Settles O19: a sent frame by `frameEvents_eq_sendBytes`; DUMMY's captures request three bytes 0x00, its word's. -/
theorem frameEncoderMatchesTheFrameKinds : Obligations.FrameEncoderMatchesTheFrameKinds := by
  intro f w h
  by_cases hf : f = .dummy
  · subst hf
    cases h
    rfl
  · rw [frameEvents_eq_sendBytes h hf]
    rfl

end Sys2Proof.Machine
end

section
/-! PROOF. The remaining statements about the scripts: a script is frames of five events each (20_memory.md R54, 30_encoding.md R79), and the
frame due at a place is the one that stands there. -/

namespace Sys2Proof.Machine

/-! ### The place of an event -/

/-- In a list of frames, the event at place `k` is event `k mod 5` of frame `k / 5`. -/
theorem getElem?_flatMap_frameEvents {l : List Instr} (hl : ∀ f ∈ l, f.command? = none) (k : Nat) :
    (l.flatMap frameEvents)[k]? = (l[k / 5]?).bind fun f => (frameEvents f)[k % 5]? := by
  induction l generalizing k with
  | nil => rfl
  | cons f l ih =>
    obtain ⟨hf, hl⟩ := List.forall_mem_cons.mp hl
    have len := length_frameEvents hf
    rw [List.flatMap_cons]
    by_cases inside_f : k < 5
    · rw [List.getElem?_append_left (by omega), Nat.div_eq_of_lt inside_f, Nat.mod_eq_of_lt inside_f]
      rfl
    · obtain ⟨j, rfl⟩ := Nat.exists_eq_add_of_le' (Nat.le_of_not_lt inside_f)
      rw [List.getElem?_append_right (by omega), len, Nat.add_sub_cancel, ih hl, Nat.add_div_right j (by decide), Nat.add_mod_right,
        List.getElem?_cons_succ]

/-- A script is five events for each frame of its command. -/
theorem length_script {i : Instr} {c : Code} {arg : Arg} {sc : List Event} (hi : i.command? = some (c, arg)) (hs : script c arg = some sc) :
    sc.length = 5 * (commandFrames i).length := by
  obtain rfl := Option.some.inj ((script_eq_commandFrames hi).symm.trans hs)
  rw [List.length_flatMap, List.map_congr_left fun f hf => length_frameEvents (command?_of_mem_commandFrames f hf), List.map_const',
    List.sum_replicate, smul_eq_mul, Nat.mul_comm]

/-- Each place inside a script is a place of one of the command's frames. -/
theorem frame_of_place {i : Instr} {c : Code} {arg : Arg} {sc : List Event} (hi : i.command? = some (c, arg)) (hs : script c arg = some sc)
    {k : Nat} (hk : k < sc.length) : ∃ f ∈ commandFrames i, (commandFrames i)[k / 5]? = some f ∧ f.command? = none := by
  rw [length_script hi hs] at hk
  have inside : k / 5 < (commandFrames i).length := by omega
  exact ⟨_, List.getElem_mem inside, List.getElem?_eq_getElem inside, command?_of_mem_commandFrames _ (List.getElem_mem inside)⟩

/-- The event at a place of a frame. -/
theorem script_getElem? {i : Instr} {c : Code} {arg : Arg} {sc : List Event} (hi : i.command? = some (c, arg)) (hs : script c arg = some sc)
    {f : Instr} {k : Nat} (hf : (commandFrames i)[k / 5]? = some f) : sc[k]? = (frameEvents f)[k % 5]? := by
  obtain rfl := Option.some.inj ((script_eq_commandFrames hi).symm.trans hs)
  rw [getElem?_flatMap_frameEvents command?_of_mem_commandFrames, hf, Option.bind_some]

/-! ### The scripts' shape -/

/-- A frame is three transfers between SEL and DESEL (20_memory.md R54). -/
theorem frameEvents_shape {f : Instr} (hf : f.command? = none) :
    ∃ e1 e2 e3, frameEvents f = [.sel, e1, e2, e3, .desel] ∧ ∀ e ∈ [e1, e2, e3], e.exchange.isSome = true ∧ ∃ b, e.request = .xfer b := by
  obtain ⟨g, hg⟩ | hg := frameEvents_cases hf
  · exact ⟨_, _, _, hg, by simp [Event.exchange, Event.request]⟩
  · exact ⟨_, _, _, hg, by simp [Event.exchange, Event.request]⟩

/-- What stands at each of a frame's five places. -/
theorem frameEvents_getElem? {f : Instr} (hf : f.command? = none) {j : Nat} (hj : j < 5) :
    (j = 0 → (frameEvents f)[j]? = some .sel) ∧ (j = 4 → (frameEvents f)[j]? = some .desel) ∧
      (1 ≤ j ∧ j ≤ 3 → ∃ b, (frameEvents f)[j]?.map Event.request = some (.xfer b)) := by
  obtain ⟨e1, e2, e3, hs, transfers⟩ := frameEvents_shape hf
  obtain ⟨⟨-, b1, h1⟩, ⟨-, b2, h2⟩, -, b3, h3⟩ : (_ ∧ _) ∧ (_ ∧ _) ∧ _ ∧ _ := by simpa using transfers
  rw [hs]
  interval_cases j
  · simp
  · simp [h1]
  · simp [h2]
  · simp [h3]
  · simp

/-- Settles O23: a place of a script is a place of one of its frames. -/
theorem everyFrameIsThreeTransfersInsideOneSelect : Obligations.EveryFrameIsThreeTransfersInsideOneSelect := by
  intro c arg sc hs
  refine ⟨(script_length hs).2.1, fun k hk => ?_⟩
  obtain ⟨i, hi⟩ := command_of_script hs
  obtain ⟨f, -, place, hf⟩ := frame_of_place hi hs hk
  rw [script_getElem? hi hs place]
  exact frameEvents_getElem? hf (Nat.mod_lt k (by decide))

/-- The frames of a command are well formed: what they write is CFGA's word or a trigger value, or is free. -/
theorem wellFormed_of_mem_commandFrames {i : Instr} : ∀ f ∈ commandFrames i, f.wellFormed = true := by
  cases i with
  | applyConfig arg => simpa [commandFrames, Instr.wellFormed] using cfga_mem_configWords arg
  | triggerUpdate _ | triggerClear _ | triggerReset _ | readConfig _ | getOutput _ | getClear _ => simp only [commandFrames]; decide
  | setOutput _ | setClear _ => simp [commandFrames, Instr.wellFormed]
  | _ => simp [commandFrames]

/-- Settles O22: the script is the frames (`script_eq_commandFrames`), and these are well-formed frame kinds. -/
theorem everyScriptIsItsCommandsFrames : Obligations.EveryScriptIsItsCommandsFrames := fun _ _ _ hi =>
  ⟨script_eq_commandFrames hi, fun f hf => ⟨wellFormed_of_mem_commandFrames f hf, command?_of_mem_commandFrames f hf⟩⟩

/-! ### The bytes of each command -/

/-- WRITE_OP byte by byte (40_frame_codec.md R101, R106). -/
theorem writeOp_eq (a : Addr) (v : Data) : writeOp a v =
    [.sel, .tx ((dirWrite ++ a : BitVec 4) ++ v.extractLsb' 16 4), .tx (v.extractLsb' 8 8), .tx (v.extractLsb' 0 8), .desel] := by
  rw [writeOp, fenc_eq_frameBytes, frameBytes_append]
  rfl

/-- The bits of an argument below bit 20 are those of its truncation. -/
theorem trunc20_extract (arg : Arg) {k n : Nat} (h : k + n ≤ 20) : (trunc20 arg.toNat).extractLsb' k n = arg.extractLsb' k n := by
  apply BitVec.eq_of_getLsbD_eq
  intro j hj
  have below : k + j < 20 := by omega
  simp [trunc20_eq_ofNat, below]

/-- The bytes of a truncated argument. -/
theorem writeOp_trunc20 (a : Addr) (arg : Arg) : writeOp a (trunc20 arg.toNat) =
    [.sel, .tx ((dirWrite ++ a : BitVec 4) ++ arg.extractLsb' 16 4), .tx (arg.extractLsb' 8 8), .tx (arg.extractLsb' 0 8), .desel] := by
  rw [writeOp_eq, trunc20_extract arg (by decide), trunc20_extract arg (by decide), trunc20_extract arg (by decide)]

theorem configWords_top_nibble {d : Data} (h : d ∈ configWords) : d.extractLsb' 16 4 = 0#4 := by
  simp only [configWords, List.mem_cons, List.not_mem_nil, or_false] at h
  obtain rfl | rfl | rfl | rfl | rfl := h <;> rfl

/-- The bytes of a configuration word; its top nibble is 0. -/
theorem writeOp_cfga (arg : Arg) : writeOp (amux 1) (cfga arg) =
    [.sel, .tx 0x20, .tx ((cfga arg).extractLsb' 8 8), .tx ((cfga arg).extractLsb' 0 8), .desel] := by
  rw [writeOp_eq, configWords_top_nibble (cfga_mem_configWords arg)]
  rfl

/-- Settles O21: three commands write a value of their argument; the other scripts are constants. -/
theorem eventsOfEachCommandByteByByte : Obligations.EventsOfEachCommandByteByByte := fun arg =>
  ⟨congrArg some (writeOp_cfga arg), rfl, rfl, rfl, rfl, congrArg some (writeOp_trunc20 (amux 0) arg), rfl,
    congrArg some (writeOp_trunc20 (amux 2) arg), rfl⟩

/-! ### The due frame (40_frame_codec.md R116; log 6) -/

/-- The three transfers of a frame kind send its word's bytes. -/
theorem sentBytes_of_encode {f : Instr} {w : FrameWord} (h : encode f = .frame w) :
    (frameEvents f)[1]?.bind Event.sentByte = some (frameBytes w).byte0 ∧
    (frameEvents f)[2]?.bind Event.sentByte = some (frameBytes w).byte1 ∧
    (frameEvents f)[3]?.bind Event.sentByte = some (frameBytes w).byte2 := by
  by_cases hf : f = .dummy
  · subst hf
    cases h
    exact ⟨rfl, rfl, rfl⟩
  · rw [frameEvents_eq_sendBytes h hf]
    exact ⟨rfl, rfl, rfl⟩

/-- The events of the assertion around place `k` are those of the frame there. -/
theorem script_getElem?_assertion {i : Instr} {c : Code} {arg : Arg} {sc : List Event} (hi : i.command? = some (c, arg))
    (hs : script c arg = some sc) {f : Instr} {k : Nat} (hf : (commandFrames i)[k / 5]? = some f) {j : Nat} (hj : j < 5) :
    sc[k / 5 * 5 + j]? = (frameEvents f)[j]? := by
  have frame_number : (k / 5 * 5 + j) / 5 = k / 5 := by omega
  have place_in_frame : (k / 5 * 5 + j) % 5 = j := by omega
  rw [script_getElem? hi hs (by rwa [frame_number]), place_in_frame]

/-- The due frame is the frame of the running command that stands at this place. -/
theorem dueFrame_of_place {s : State} {i f : Instr} {w : FrameWord} (hi : i.command? = some (s.cmd, s.arg))
    (hf : (commandFrames i)[s.step.toNat / 5]? = some f) (hw : encode f = .frame w) : s.dueFrame = some w := by
  have hs := script_eq_commandFrames hi
  have event {j : Nat} (hj : j < 5) := script_getElem?_assertion hi hs hf hj
  obtain ⟨b0, b1, b2⟩ := sentBytes_of_encode hw
  simp only [State.dueFrame, hs, Option.getD_some, event (show 1 < 5 by decide), event (show 2 < 5 by decide), event (show 3 < 5 by decide),
    b0, b1, b2, append_of_frameBytes]

/-- A running command inside its script stands in one of its frames, which is the due one. -/
theorem dueFrame_inside {s : State} {sc : List Event} (hs : script s.cmd s.arg = some sc) (hk : s.step.toNat < sc.length) :
    ∃ i f w, i.command? = some (s.cmd, s.arg) ∧ (commandFrames i)[s.step.toNat / 5]? = some f ∧ f ∈ commandFrames i ∧ encode f = .frame w ∧
      s.dueFrame = some w := by
  obtain ⟨i, hi⟩ := command_of_script hs
  obtain ⟨f, mem, place, hf⟩ := frame_of_place hi hs hk
  obtain ⟨w, hw⟩ := encode_of_frame hf
  exact ⟨i, f, w, hi, place, mem, hw, dueFrame_of_place hi place hw⟩

/-- So a due frame is a frame of the running command, at this place. -/
theorem frame_of_dueFrame {s : State} {v : FrameWord} (h : s.dueFrame = some v) :
    ∃ i f, i.command? = some (s.cmd, s.arg) ∧ (commandFrames i)[s.step.toNat / 5]? = some f ∧ f ∈ commandFrames i ∧ encode f = .frame v := by
  have inside := lt_of_dueFrame h
  cases hs : script s.cmd s.arg with
  | none => simp [scriptLength, hs] at inside
  | some sc =>
    rw [(script_length hs).2.2] at inside
    obtain ⟨i, f, w, hi, place, mem, hw, due⟩ := dueFrame_inside hs inside
    obtain rfl := Option.some.inj (h.symm.trans due)
    exact ⟨i, f, hi, place, mem, hw⟩

end Sys2Proof.Machine
end

section
/-! PROOF. The remaining statements about one sequencer step: of a command, of a frame kind, and of the machine. -/

namespace Sys2Proof.Machine

/-! ### One event (40_frame_codec.md R114, 60_exceptions.md R202) -/

/-- A `TX` that is answered: its byte is recorded, the answer discarded. -/
theorem issue_tx_answered (b : Byte) {s : State} {r : Byte} (h : s.answerAt 0 = .byte r) :
    issue (.tx b) s = { s with
      answers := s.answers.tail, draws := s.draws + 1, trace := s.trace ++ [.tx b (.byte r)], step := s.step + 1 } := by
  rw [← State.nextAnswer_eq_answerAt] at h
  simp only [issue, transfer, h]
  rfl

/-- A `CAP` that is answered: DUMMY is recorded, the answer kept in its place. -/
theorem issue_cap_answered (j : Fin 3) {s : State} {r : Byte} (h : s.answerAt 0 = .byte r) :
    issue (.cap j) s = { s with
      answers := s.answers.tail, draws := s.draws + 1, trace := s.trace ++ [.tx 0x00 (.byte r)], step := s.step + 1
      rxbuf := ⟨if j = 0 then r else s.rxbuf.byte0, if j = 1 then r else s.rxbuf.byte1, if j = 2 then r else s.rxbuf.byte2⟩ } := by
  rw [← State.nextAnswer_eq_answerAt] at h
  simp only [issue, transfer, h]
  fin_cases j <;> rfl

/-- A transfer that fails: what an abort writes, and nothing else. -/
theorem issue_failed {e : Event} {b : Byte} (he : e.request = .xfer b) {s : State} {info : FailInfo} (h : s.answerAt 0 = .fail info) :
    issue e s = { s with
      answers := s.answers.tail, draws := s.draws + 1, trace := s.trace ++ [.tx b (.fail info)], err := true, errStep := s.step, done := true
      seqState := .idle, failInfo := info, inject := none } := by
  rw [← State.nextAnswer_eq_answerAt] at h
  cases e with
  | sel | desel => cases he
  | tx _ | cap _ =>
    cases he
    simp only [issue, transfer, h]
    rfl

/-! ### One step of a command -/

theorem exec_accept {i : Instr} {c : Code} {arg : Arg} (hi : i.command? = some (c, arg)) {s : State} (hidle : s.seqState = .idle) :
    exec i s = .next (accept c arg s) := by
  obtain ⟨sc, hs⟩ := script_of_command hi
  exact (exec_of_command hi hs s).trans (runCommand_idle hidle)

theorem exec_event {i : Instr} {s : State} {sc : List Event} {e : Event} (hi : i.command? = some (s.cmd, s.arg)) (hb : s.seqState = .busy)
    (hs : script s.cmd s.arg = some sc) (he : sc[s.step.toNat]? = some e) : exec i s = .next (issue e s) :=
  (exec_of_command hi hs s).trans (runCommand_event hb he)

/-- Settles O26: each of the nine is accepted (`exec_accept`), which writes these fields (`accept_eq`). -/
theorem everyCommandIsAcceptedWhenIdle : Obligations.EveryCommandIsAcceptedWhenIdle := fun _ _ h =>
  ⟨exec_accept rfl h, exec_accept rfl h, exec_accept rfl h, exec_accept rfl h, exec_accept rfl h, exec_accept rfl h, exec_accept rfl h,
    exec_accept rfl h, exec_accept rfl h⟩

/-- Settles O29: the due event is issued; a chip-select request as it is defined, a transfer by what is answered. -/
theorem runningCommandIssuesItsNextEvent : Obligations.RunningCommandIssuesItsNextEvent := by
  intro i s sc e hi hb hs he
  simp only [exec_event hi hb hs he]
  cases e with
  | sel | desel => rfl
  | tx b =>
    cases ha : s.answerAt 0 with
    | byte r => rw [issue_tx_answered b ha]
    | fail info => rw [issue_failed rfl ha]
  | cap j =>
    cases ha : s.answerAt 0 with
    | byte r => rw [issue_cap_answered j ha]
    | fail info => rw [issue_failed rfl ha]; rfl

/-- Settles O31: `runCommand_held`. -/
theorem otherCommandWhileBusyChangesNothing : Obligations.OtherCommandWhileBusyChangesNothing := by
  intro i c arg s hi hb other
  obtain ⟨sc, hs⟩ := script_of_command hi
  rw [exec_of_command hi hs]
  exact runCommand_held hb fun ⟨same_code, same_arg⟩ => other (by rw [same_code, same_arg])

/-- Settles O53: the completion of a read forms RESULT and sets DONE, and the port presents these. -/
theorem statusPortPresentsTheResult : Obligations.StatusPortPresentsTheResult := by
  intro i s hi hb herr hread hend
  refine ⟨_, exec_end hi hb hend, ?_⟩
  rw [completeFor, if_pos hread]
  simp [State.statusPort, State.ready, herr]

/-! ### One step of a frame kind -/

/-- A frame's meaning, by its place: five places, five events. -/
theorem sendFrame_five (e0 e1 e2 e3 e4 : Event) {s : State} (hb : s.seqState = .busy) (hl : s.step.toNat < scriptLength s.cmd s.arg) :
    sendFrame [e0, e1, e2, e3, e4] s = .next (
      if s.step.toNat % 5 = 0 then issue e0 s else if s.step.toNat % 5 = 1 then issue e1 s
      else if s.step.toNat % 5 = 2 then issue e2 s else if s.step.toNat % 5 = 3 then issue e3 s else issue e4 s) := by
  simp only [sendFrame, hb, if_pos hl]
  have place : s.step.toNat % 5 < 5 := Nat.mod_lt _ (by decide)
  generalize s.step.toNat % 5 = j at place
  interval_cases j <;> rfl

/-- A write frame's, with its bytes. -/
theorem sendFrame_writeOp (a : Addr) (d : Data) {s : State} (hb : s.seqState = .busy) (hl : s.step.toNat < scriptLength s.cmd s.arg) :
    sendFrame (writeOp a d) s = .next (
      if s.step.toNat % 5 = 0 then issue .sel s
      else if s.step.toNat % 5 = 1 then issue (.tx ((dirWrite ++ a : BitVec 4) ++ d.extractLsb' 16 4)) s
      else if s.step.toNat % 5 = 2 then issue (.tx (d.extractLsb' 8 8)) s
      else if s.step.toNat % 5 = 3 then issue (.tx (d.extractLsb' 0 8)) s else issue .desel s) := by
  rw [writeOp_eq]
  exact sendFrame_five _ _ _ _ _ hb hl

/-- Settles O32: a write frame by `sendFrame_writeOp`; the events of the other kinds are constants. -/
theorem frameKindIssuesItsEventOfThisPlace : Obligations.FrameKindIssuesItsEventOfThisPlace := fun d _ hb hl =>
  ⟨sendFrame_writeOp (amux 0) d hb hl, sendFrame_writeOp (amux 1) d hb hl, sendFrame_writeOp (amux 2) d hb hl,
    sendFrame_writeOp (amux 3) d hb hl, sendFrame_five .sel (.tx 0x90) (.tx 0x00) (.tx 0x00) .desel hb hl,
    sendFrame_five .sel (.tx 0xA0) (.tx 0x00) (.tx 0x00) .desel hb hl, sendFrame_five .sel (.tx 0xB0) (.tx 0x00) (.tx 0x00) .desel hb hl,
    sendFrame_five .sel (.cap 0) (.cap 1) (.cap 2) .desel hb hl⟩

/-- Settles O35: the frame's event at this place is the script's (`script_getElem?`), and both meanings issue it. -/
theorem frameStepIsTheCommandsStep : Obligations.FrameStepIsTheCommandsStep := by
  intro i f s hi hb hl place
  obtain ⟨sc, hs⟩ := script_of_command hi
  have inside : s.step.toNat < sc.length := by rwa [(script_length hs).2.2] at hl
  have event := List.getElem?_eq_getElem inside
  have hf := command?_of_mem_commandFrames f (List.mem_of_getElem? place)
  rw [exec_of_frame hf, exec_event hi hb hs event]
  exact sendFrame_event hb hl ((script_getElem? hi hs place).symm.trans event)

/-! ### One step of the machine -/

/-- Idle, with a command presented: it is run with the word taken off the port. -/
theorem step_of_command {s : State} {w : CommandWord} {rest : List CommandWord} {i : Instr} (hr : s.resetAsserted = false)
    (hidle : s.seqState = .idle) (hp : s.port = w :: rest) (hd : decode (.cmd w) = .ok i) :
    step s = exec i { s with port := rest, resetLine := s.resetLine.tail } := by
  have found : fetch s.sampleReset = .run i { s.sampleReset with port := rest } := by simp [fetch, fetchPort, hidle, hp, hd]
  rw [step_of_fetch hr, found]
  rfl

/-- Idle, with a reserved word presented: it is refused. -/
theorem step_of_reserved {s : State} {w : CommandWord} {rest : List CommandWord} {e : DecodeError} (hr : s.resetAsserted = false)
    (hidle : s.seqState = .idle) (hp : s.port = w :: rest) (hd : decode (.cmd w) = .error e) : step s = .refused (refusalOf e) := by
  have found : fetch s.sampleReset = .refuse (refusalOf e) := by simp [fetch, fetchPort, hidle, hp, hd]
  rw [step_of_fetch hr, found]

/-- Idle, with nothing presented: only the reset input is sampled. -/
theorem step_of_nothing {s : State} (hr : s.resetAsserted = false) (hidle : s.seqState = .idle) (hp : s.port = []) :
    step s = .next s.sampleReset := by
  have found : fetch s.sampleReset = .nothing := by simp [fetch, fetchPort, hidle, hp]
  rw [step_of_fetch hr, found]

/-- Busy, with nothing placed: the running command is run. -/
theorem step_of_latched {s : State} {i : Instr} (hr : s.resetAsserted = false) (hb : s.seqState = .busy) (hinj : s.inject = none)
    (hi : i.command? = some (s.cmd, s.arg)) : step s = exec i s.sampleReset := by
  have found : fetch s.sampleReset = .run i s.sampleReset := by simp [fetch, fetchLatched, hb, hinj, decode_cmd_iff.2 hi]
  rw [step_of_fetch hr, found]

/-- Busy, with a placed frame that is due: it is run, and dropped at its last event. -/
theorem step_of_placed {s : State} {w : FrameWord} {f : Instr} (hr : s.resetAsserted = false) (hb : s.seqState = .busy)
    (hinj : s.inject = some w) (hd : decode (.frame w) = .ok f) (hdue : s.PlacedIsDue w) :
    step s = exec f { s.sampleReset with inject := if s.step.toNat % 5 = 4 then none else some w } := by
  have may : s.sampleReset.mayIssue w = true := mayIssue_iff.2 hdue
  have found : fetch s.sampleReset = .run f { s.sampleReset with inject := if s.step.toNat % 5 = 4 then none else some w } := by
    simp only [fetch, State.sampleReset_seqState, hb, State.sampleReset_inject, hinj, fetchPlaced, hd]
    exact if_pos may
  rw [step_of_fetch hr, found]

/-- Busy, with a placed frame that is not due: it is refused (70_reset_and_hazards.md R240). -/
theorem step_of_undue {s : State} {w : FrameWord} (hr : s.resetAsserted = false) (hb : s.seqState = .busy) (hinj : s.inject = some w)
    (hdue : ¬ s.PlacedIsDue w) : step s = .refused (.reservedFrame w) := by
  have may_not : s.sampleReset.mayIssue w = false := Bool.eq_false_of_not_eq_true fun may => hdue (mayIssue_iff.1 may)
  have found : fetch s.sampleReset = .refuse (.reservedFrame w) := by
    cases hd : decode (.frame w) with
    | ok f => simp [fetch, fetchPlaced, hb, hinj, hd, may_not]
    | error e => simp [fetch, fetchPlaced, hb, hinj, hd, error_of_decodeFrame hd, refusalOf]
  rw [step_of_fetch hr, found]

/-- Settles O45. -/
theorem resetStateHoldsTheResetValues : Obligations.ResetStateHoldsTheResetValues := ⟨rfl, rfl, rfl⟩

/-- Settles O46: with the reset input asserted no request is made, and the step is the block's reset. -/
theorem assertedResetEndsAnyCommand : Obligations.AssertedResetEndsAnyCommand := fun _ hr =>
  ⟨if_pos hr, _, step_of_reset hr, rfl, rfl, rfl, rfl, rfl, rfl, rfl, rfl, rfl, rfl, rfl, rfl, rfl, rfl, rfl, rfl⟩

/-- What a step that is no reset and answers a next state does: it waits, accepts a command, issues the due event, or completes the running
command. -/
theorem step_acts {s t : State} (hr : s.resetAsserted = false) (h : step s = .next t) :
    (s.seqState = .idle ∧ s.dueEvent = none ∧ t = s.sampleReset) ∨
    (∃ c arg rest, s.seqState = .idle ∧ s.dueEvent = none ∧ s.port = (c ++ arg) :: rest ∧
      t = accept c arg { s.sampleReset with port := rest }) ∨
    (∃ e inj, s.seqState = .busy ∧ s.dueEvent = some e ∧ t = issue e { s.sampleReset with inject := inj }) ∨
    (s.seqState = .busy ∧ s.dueEvent = none ∧ s.step.toNat = scriptLength s.cmd s.arg ∧ t = completeFor s.cmd s.sampleReset) := by
  obtain ⟨hidle, -, ht⟩ | ⟨c, arg, rest, hidle, hp, -, ht⟩ | ⟨sc, e, hb, hi, hs, he, ht⟩ | ⟨sc, hb, hi, hs, hend, ht⟩ |
    ⟨w, f, e, hb, hi, hf, hm, -, he, ht⟩ := step_cases hr h
  · exact .inl ⟨hidle, dueEvent_of_idle hidle, ht⟩
  · exact .inr (.inl ⟨c, arg, rest, hidle, dueEvent_of_idle hidle, hp, ht⟩)
  · exact .inr (.inr (.inl ⟨e, s.inject, hb, (dueEvent_of_script hb hi hs).trans he, ht⟩))
  · have past_end : sc[s.step.toNat]? = none := List.getElem?_eq_none hend.ge
    exact .inr (.inr (.inr ⟨hb, (dueEvent_of_script hb hi hs).trans past_end, hend.trans (script_length hs).2.2.symm, ht⟩))
  · exact .inr (.inr (.inl ⟨e, _, hb, (dueEvent_of_placed hb hi hf hm).trans he, ht⟩))

/-- What completing leaves as it is. -/
theorem completeFor_frame (c : Code) (s : State) :
    (completeFor c s).cmd = s.cmd ∧ (completeFor c s).arg = s.arg ∧ (completeFor c s).port = s.port ∧ (completeFor c s).rxbuf = s.rxbuf ∧
      (completeFor c s).trace = s.trace ∧ (completeFor c s).resetLine = s.resetLine ∧ (completeFor c s).step = s.step ∧
      (completeFor c s).inject = s.inject ∧ (completeFor c s).errStep = s.errStep := by
  rw [completeFor_eq]
  simp

/-- Completing ends the command. -/
@[simp] theorem completeFor_seqState (c : Code) (s : State) : (completeFor c s).seqState = .idle := by
  rw [completeFor_eq]

@[simp] theorem completeFor_done (c : Code) (s : State) : (completeFor c s).done = true := by
  rw [completeFor_eq]

/-- While busy, the port and the running command stay. -/
theorem step_of_busy_keeps {s t : State} (hr : s.resetAsserted = false) (hb : s.seqState = .busy) (h : step s = .next t) :
    t.port = s.port ∧ t.cmd = s.cmd ∧ t.arg = s.arg := by
  obtain ⟨hidle, -⟩ | ⟨c, arg, rest, hidle, -⟩ | ⟨e, inj, -, -, rfl⟩ | ⟨-, -, -, rfl⟩ := step_acts hr h
  · cases hb.symm.trans hidle
  · cases hb.symm.trans hidle
  · obtain ⟨hcmd, harg, -, hport, -⟩ := issue_frame e { s.sampleReset with inject := inj }
    exact ⟨hport, hcmd, harg⟩
  · obtain ⟨hcmd, harg, hport, -⟩ := completeFor_frame s.cmd s.sampleReset
    exact ⟨hport, hcmd, harg⟩

/-- An idle block presented with a known code accepts it. -/
theorem step_of_known {s : State} {c : Code} {arg : Arg} {rest : List CommandWord} (hr : s.resetAsserted = false) (hidle : s.seqState = .idle)
    (hp : s.port = (c ++ arg) :: rest) (known : 1 ≤ c.toNat ∧ c.toNat ≤ 9) :
    step s = .next (accept c arg { s with port := rest, resetLine := s.resetLine.tail }) := by
  obtain ⟨i, hi⟩ := command_of_known arg known
  rw [step_of_command hr hidle hp (decode_cmd_iff.2 hi)]
  exact exec_accept hi hidle

/-- Settles O28: a reserved code does not decode and is refused; a known one is accepted. -/
theorem reservedCommandIsRefused : Obligations.ReservedCommandIsRefused := by
  intro s c arg rest hr hidle hp
  refine ⟨fun refused => (reserved_iff c).2 fun known => ?_, fun reserved => step_of_reserved hr hidle hp (decode_cmd_error_iff.2 reserved)⟩
  cases refused.symm.trans (step_of_known hr hidle hp known)

/-- Settles O27: the three clauses are `step_of_known`, `step_of_busy_keeps` and the refusal. -/
theorem portCommandIsAcceptedOnlyWhenIdleAndKnown : Obligations.PortCommandIsAcceptedOnlyWhenIdleAndKnown := by
  refine ⟨fun s c arg rest hr hidle hp known => step_of_known hr hidle hp known, fun s t hr hb h => step_of_busy_keeps hr hb h,
    fun s c arg rest hr hidle hp reserved t next => ?_⟩
  cases next.symm.trans ((reservedCommandIsRefused s c arg rest hr hidle hp).2 reserved)

/-! ### Placed frames (70_reset_and_hazards.md R240; log 6) -/

/-- The kind and the data of a frame word are determined by it. -/
theorem frameWord_inj {n m : BitVec 4} {d e : Data} (h : (n ++ d : FrameWord) = m ++ e) : n = m ∧ d = e := by
  have kinds := congrArg (fun w : FrameWord => w.extractLsb' 20 4) h
  have data := congrArg (fun w : FrameWord => w.extractLsb' 0 20) h
  simp only [kind_of_append] at kinds
  simp only [data_of_append] at data
  exact ⟨kinds, data⟩

/-- Two instructions with the same frame are the same, since decoding the frame gives both. -/
theorem encode_frame_inj {f g : Instr} {w : FrameWord} (hf : encode f = .frame w) (hg : encode g = .frame w) : f = g :=
  Except.ok.inj ((decodeFrame_of_encode hf).symm.trans (decodeFrame_of_encode hg))

/-- A placed frame that is due is a well-formed frame of the running command, or an allowed control word. -/
theorem placedIsDue_cases {s : State} {w : FrameWord} (h : s.PlacedIsDue w) :
    (∃ i f, i.command? = some (s.cmd, s.arg) ∧ (commandFrames i)[s.step.toNat / 5]? = some f ∧ f.wellFormed = true ∧ encode f = .frame w) ∨
    ∃ d : Data, w = 0x2#4 ++ d ∧ d.extractLsb' 0 1 = 0 ∧ d.extractLsb' 10 10 = 0 ∧
      d.extractLsb' 6 4 ∈ [0b0000#4, 0b1001#4, 0b1010#4, 0b1011#4, 0b1100#4] := by
  obtain due | ⟨d, e, hw, -, bit0, high, legal⟩ := h
  · obtain ⟨i, f, hi, place, mem, hw⟩ := frame_of_dueFrame due
    exact .inl ⟨i, f, hi, place, wellFormed_of_mem_commandFrames f mem, hw⟩
  · exact .inr ⟨d, hw, bit0, high, legal⟩

/-- A due frame has one of the eight top nibbles. -/
theorem kind_of_due {s : State} {w : FrameWord} (h : s.PlacedIsDue w) : w.extractLsb' 20 4 ∈ [0#4, 1#4, 2#4, 3#4, 4#4, 9#4, 10#4, 11#4] := by
  obtain ⟨i, f, -, -, -, hw⟩ | ⟨d, rfl, -⟩ := placedIsDue_cases h
  · exact kind_of_encode hw
  · rw [kind_of_append]
    decide

/-- A due control word is allowed (30_encoding.md R84, R85). -/
theorem allowed_of_due {s : State} {d : Data} (h : s.PlacedIsDue (0x2#4 ++ d)) :
    d.extractLsb' 0 1 = 0 ∧ d.extractLsb' 10 10 = 0 ∧ d.extractLsb' 6 4 ∈ [0b0000#4, 0b1001#4, 0b1010#4, 0b1011#4, 0b1100#4] := by
  obtain ⟨i, f, -, -, formed, hw⟩ | ⟨d', same, allowed⟩ := placedIsDue_cases h
  · obtain rfl := encode_frame_inj hw (g := .wCtrl d) rfl
    exact configWords_allowed (List.contains_iff_mem.1 formed)
  · obtain ⟨-, rfl⟩ := frameWord_inj same
    exact allowed

/-- A due software-control word is one of the four (42_triggers.md R160). -/
theorem trigger_of_due {s : State} {d : Data} (h : s.PlacedIsDue (0x4#4 ++ d)) : d ∈ triggerWords := by
  obtain ⟨i, f, -, -, formed, hw⟩ | ⟨d', same, -⟩ := placedIsDue_cases h
  · obtain rfl := encode_frame_inj hw (g := .wSwctrl d) rfl
    exact List.contains_iff_mem.1 formed
  · exact absurd (frameWord_inj same).1 (by decide)

/-- A due frame with top nibble 0 is a DUMMY without data, and the script captures here. -/
theorem readback_of_due {s : State} {d : Data} (h : s.PlacedIsDue (0x0#4 ++ d)) :
    d = 0 ∧ ∃ sc, script s.cmd s.arg = some sc ∧ sc[s.step.toNat / 5 * 5 + 1]? = some (.cap 0) := by
  obtain ⟨i, f, hi, place, -, hw⟩ | ⟨d', same, -⟩ := placedIsDue_cases h
  · have data_zero : d = 0 := by
      have h0 := data_of_encode hw (by rw [kind_of_append]; decide)
      rwa [data_of_append] at h0
    subst data_zero
    obtain rfl := encode_frame_inj hw (g := .dummy) rfl
    obtain ⟨sc, hs⟩ := script_of_command hi
    exact ⟨rfl, sc, hs, script_getElem?_assertion hi hs place (by decide)⟩
  · exact absurd (frameWord_inj same).1 (by decide)

/-- Settles O36: a frame kind by itself by `sendFrame_nothing`; each excluded frame is not due, by the four lemmas above, and is refused. -/
theorem noFrameIsSentWhereNoneIsDue : Obligations.NoFrameIsSentWhereNoneIsDue := by
  refine ⟨fun f s hf nothing_due => (exec_of_frame hf s).trans (sendFrame_nothing nothing_due), fun s w hr hb hinj => ?_⟩
  refine ⟨fun other => ?_, fun d hw excluded => ?_, fun d hw excluded => ?_, fun d hw excluded => ?_⟩ <;>
    refine step_of_undue hr hb hinj fun due => ?_
  · exact other (kind_of_due due)
  · obtain ⟨bit0, high, legal⟩ := allowed_of_due (hw ▸ due)
    obtain h | h | h := excluded
    · exact h bit0
    · exact h high
    · exact h legal
  · exact excluded (trigger_of_due (hw ▸ due))
  · obtain ⟨data_zero, sc, hs, captures⟩ := readback_of_due (hw ▸ due)
    obtain h | h := excluded
    · exact h data_zero
    · exact h sc hs captures

/-- Settles O44: the clauses are the lemmas about the step above; the due frame is the script's frame at this place. -/
theorem stepRunsTheDecodedInstruction : Obligations.StepRunsTheDecodedInstruction := by
  intro s i hr
  refine ⟨fun w rest hidle hp hd => step_of_command hr hidle hp hd, fun hb hinj hd => step_of_latched hr hb hinj (decode_cmd_iff.1 hd),
    fun w hb hinj hd hdue => step_of_placed hr hb hinj hd hdue, fun w hb hinj hdue => step_of_undue hr hb hinj hdue,
    fun sc hs inside => ?_, fun outside => ?_, fun hidle hp => step_of_nothing hr hidle hp⟩
  · obtain ⟨j, f, w, hj, place, -, hw, due⟩ := dueFrame_inside hs inside
    have requests := frameEncoderMatchesTheFrameKinds f w hw
    refine ⟨_, _, _, ?_, ?_, ?_, due.trans (congrArg some (append_of_frameBytes w).symm)⟩ <;>
      rw [script_getElem?_assertion hj hs place (by decide), ← List.getElem?_map, requests] <;> rfl
  · exact Option.eq_none_iff_forall_ne_some.2 fun v hv => absurd (lt_of_dueFrame hv) (Nat.not_lt.2 outside)

end Sys2Proof.Machine
end

section
/-! PROOF. The remaining statements about events in a row: a frame's five steps, a whole command, an abort, and the command in one go. -/

namespace Sys2Proof.Machine

/-! ### What one event does to the answers, the trace and the registers -/

/-- An event takes the answers its transfer takes, one or none. -/
theorem answerAt_issue (e : Event) (s : State) (k : Nat) : (issue e s).answerAt k = s.answerAt (transferCount [e] + k) := by
  obtain ⟨hx, ht, -⟩ | ⟨b, keep, r, hx, -, -, ht⟩ | ⟨b, keep, info, hx, -, -, ht⟩ := issue_cases e s
  · have none_taken : transferCount [e] = 0 := by simp [transferCount, hx]
    rw [ht, none_taken, Nat.zero_add]
    exact State.answerAt_congr rfl rfl k
  · have one_taken : transferCount [e] = 1 := by simp [transferCount, hx]
    rw [ht, one_taken, Nat.add_comm, exchange_keep hx]
    exact State.answerAt_of_tail rfl rfl k
  · have one_taken : transferCount [e] = 1 := by simp [transferCount, hx]
    rw [ht, one_taken, Nat.add_comm]
    exact State.answerAt_of_tail rfl rfl k

/-- An event appends its request to the trace, answered or not (00_scope.md R11). -/
theorem issue_trace (e : Event) (s : State) : ∃ x : TraceEvent, x.request = e.request ∧ (issue e s).trace = s.trace ++ [x] := by
  obtain ⟨-, ht, hline⟩ | ⟨b, keep, r, hx, hreq, -, ht⟩ | ⟨b, keep, info, -, hreq, -, ht⟩ := issue_cases e s
  · exact ⟨e.line, hline, by rw [ht]; rfl⟩
  · exact ⟨.tx b (.byte r), hreq.symm, by rw [ht, exchange_keep hx]; rfl⟩
  · exact ⟨.tx b (.fail info), hreq.symm, by rw [ht]; rfl⟩

/-- `t` is `s` one event later, the command still running. -/
structure State.AdvancesTo (s t : State) : Prop where
  seqState : t.seqState = s.seqState
  step : t.step = s.step + 1
  err : t.err = s.err
  errStep : t.errStep = s.errStep
  done : t.done = s.done
  inject : t.inject = s.inject

/-- An event advances the step, unless it is a transfer that fails, which takes the exception. -/
theorem issue_outcome (e : Event) (s : State) :
    s.AdvancesTo (issue e s) ∨
    ∃ b info, e.exchange.isSome = true ∧ e.request = .xfer b ∧ s.answerAt 0 = .fail info ∧
      issue e s = raiseTransportFailure s.step info (s.takeAnswer.record (.tx b (.fail info))) := by
  obtain ⟨-, ht, -⟩ | ⟨b, keep, r, hx, -, -, ht⟩ | ⟨b, keep, info, hx, hreq, ha, ht⟩ := issue_cases e s
  · rw [ht]
    exact .inl ⟨rfl, rfl, rfl, rfl, rfl, rfl⟩
  · rw [ht, exchange_keep hx]
    exact .inl ⟨rfl, rfl, rfl, rfl, rfl, rfl⟩
  · exact .inr ⟨b, info, by rw [hx]; rfl, hreq, ha, ht⟩

/-! ### Events in a row, all answered -/

/-- Events issued one after the other. -/
def issueAll (es : List Event) (s : State) : State := es.foldl (fun t e => issue e t) s

@[simp] theorem issueAll_nil (s : State) : issueAll [] s = s := rfl

@[simp] theorem issueAll_cons (e : Event) (es : List Event) (s : State) : issueAll (e :: es) s = issueAll es (issue e s) := rfl

theorem issueAll_append (es fs : List Event) (s : State) : issueAll (es ++ fs) s = issueAll fs (issueAll es s) := List.foldl_append

theorem answerAt_issueAll (es : List Event) (s : State) (k : Nat) : (issueAll es s).answerAt k = s.answerAt (transferCount es + k) := by
  induction es generalizing s with
  | nil => simp [transferCount]
  | cons e es ih => rw [issueAll_cons, ih, answerAt_issue, transferCount_cons e es, Nat.add_assoc]

theorem issueAll_requests (es : List Event) (s : State) :
    (issueAll es s).trace.map TraceEvent.request = s.trace.map TraceEvent.request ++ es.map Event.request := by
  induction es generalizing s with
  | nil => simp
  | cons e es ih =>
    obtain ⟨x, hx, ht⟩ := issue_trace e s
    rw [issueAll_cons, ih, ht, List.map_append, List.map_singleton, hx, List.append_assoc, List.map_cons, List.singleton_append]

/-- What no events change. -/
theorem issueAll_frame (es : List Event) (s : State) :
    (issueAll es s).cmd = s.cmd ∧ (issueAll es s).arg = s.arg ∧ (issueAll es s).result = s.result ∧ (issueAll es s).port = s.port := by
  induction es generalizing s with
  | nil => exact ⟨rfl, rfl, rfl, rfl⟩
  | cons e es ih =>
    obtain ⟨hcmd, harg, hresult, hport, -⟩ := issue_frame e s
    rw [issueAll_cons, ← hcmd, ← harg, ← hresult, ← hport]
    exact ih _

/-- Every transfer among `es`, issued in a row from `s`, is answered with a byte. -/
def State.Answers (s : State) (es : List Event) : Prop := ∀ k < transferCount es, ∃ r, s.answerAt k = .byte r

/-- So the first event advances the step, and the others are answered after it. -/
theorem State.Answers.head {s : State} {e : Event} {es : List Event} (h : s.Answers (e :: es)) :
    s.AdvancesTo (issue e s) ∧ (issue e s).Answers es := by
  have count := transferCount_cons e es
  refine ⟨?_, fun k hk => ?_⟩
  · obtain advances | ⟨b, info, hx, -, fails, -⟩ := issue_outcome e s
    · exact advances
    · have one_taken : transferCount [e] = 1 := by simp [transferCount, hx]
      obtain ⟨r, answered⟩ := h 0 (by omega)
      cases answered.symm.trans fails
  · rw [answerAt_issue]
    exact h _ (by omega)

/-- Steps of an instruction `i`, where `R es s` says that `i` has the events `es` left to issue: it issues them in order as long as they are
answered. -/
theorem execTimes_issueAll {i : Instr} {R : List Event → State → Prop} (issues : ∀ {e es s}, R (e :: es) s → exec i s = .next (issue e s))
    (goes_on : ∀ {e es s}, R (e :: es) s → s.AdvancesTo (issue e s) → R es (issue e s)) (es rest : List Event) {s : State}
    (hR : R (es ++ rest) s) (ha : s.Answers es) (n : Nat) :
    execTimes (es.length + n) i s = execTimes n i (issueAll es s) ∧ R rest (issueAll es s) := by
  induction es generalizing s with
  | nil => exact ⟨by rw [List.length_nil, Nat.zero_add]; rfl, hR⟩
  | cons e es ih =>
    obtain ⟨advances, answered⟩ := ha.head
    obtain ⟨run, left⟩ := ih (goes_on hR advances) answered
    refine ⟨?_, left⟩
    rw [List.length_cons, Nat.add_right_comm, execTimes_of_next (issues hR), run, issueAll_cons]

/-! ### One frame -/

/-- The step after the next event; a script has at most ten, so it does not wrap. -/
theorem toNat_step_succ {s : State} (h : s.step.toNat < scriptLength s.cmd s.arg) : (s.step + 1).toNat = s.step.toNat + 1 := by
  have length_le : scriptLength s.cmd s.arg ≤ 10 := by
    cases hs : script s.cmd s.arg with
    | none => simp [scriptLength, hs]
    | some sc =>
      obtain ⟨-, hlen, hl⟩ := script_length hs
      omega
  have room : s.step.toNat + (1 : BitVec 4).toNat < 2 ^ 4 := by
    show s.step.toNat + 1 < 16
    omega
  rw [BitVec.toNat_add_of_lt room]
  rfl

/-- The length of a script is a number of frames, so a frame that begins inside it also ends inside it (20_memory.md R54). -/
theorem frame_inside {s : State} (h : s.step.toNat < scriptLength s.cmd s.arg) : s.step.toNat / 5 * 5 + 5 ≤ scriptLength s.cmd s.arg := by
  cases hs : script s.cmd s.arg with
  | none => simp [scriptLength, hs] at h
  | some sc =>
    obtain ⟨-, hlen, hl⟩ := script_length hs
    omega

/-- `s` is in the frame `f`, begun at step `first`, and `es` is what is left of it. -/
structure State.Sends (f : Instr) (first : Nat) (es : List Event) (s : State) : Prop where
  busy : s.seqState = .busy
  begun : first % 5 = 0 ∧ first + 5 ≤ scriptLength s.cmd s.arg
  left : ∃ issued, frameEvents f = issued ++ es ∧ s.step.toNat = first + issued.length

/-- At its first place all of the frame is left. -/
theorem sends_first {f : Instr} {s : State} (hb : s.seqState = .busy) (h0 : s.step.toNat % 5 = 0)
    (hl : s.step.toNat < scriptLength s.cmd s.arg) : s.Sends f s.step.toNat (frameEvents f) := by
  have inside := frame_inside hl
  exact ⟨hb, ⟨h0, by omega⟩, [], rfl, rfl⟩

/-- The place of the next event of a frame. -/
theorem State.Sends.place {f : Instr} (hf : f.command? = none) {first : Nat} {e : Event} {es : List Event} {s : State}
    (h : s.Sends f first (e :: es)) :
    s.step.toNat < scriptLength s.cmd s.arg ∧ (frameEvents f)[s.step.toNat % 5]? = some e := by
  obtain ⟨-, ⟨h0, inside⟩, issued, hes, hstep⟩ := h
  have hlen := congrArg List.length hes
  rw [length_frameEvents hf, List.length_append, List.length_cons] at hlen
  have hmod : s.step.toNat % 5 = issued.length := by omega
  refine ⟨by omega, ?_⟩
  rw [hmod, hes, List.getElem?_append_right (Nat.le_refl _), Nat.sub_self, List.getElem?_cons_zero]

/-- It is issued. -/
theorem State.Sends.exec_cons {f : Instr} (hf : f.command? = none) {first : Nat} {e : Event} {es : List Event} {s : State}
    (h : s.Sends f first (e :: es)) : exec f s = .next (issue e s) := by
  obtain ⟨inside, event⟩ := h.place hf
  exact (exec_of_frame hf s).trans (sendFrame_event h.busy inside event)

/-- And the events after it are left. -/
theorem State.Sends.issue {f : Instr} (hf : f.command? = none) {first : Nat} {e : Event} {es : List Event} {s : State}
    (h : s.Sends f first (e :: es)) (advances : s.AdvancesTo (issue e s)) : (issue e s).Sends f first es := by
  obtain ⟨inside, -⟩ := h.place hf
  obtain ⟨hb, begun, issued, hes, hstep⟩ := h
  obtain ⟨hcmd, harg, -⟩ := issue_frame e s
  refine ⟨advances.seqState.trans hb, by rwa [hcmd, harg], issued ++ [e], by rw [hes, List.append_assoc, List.singleton_append], ?_⟩
  rw [advances.step, toNat_step_succ inside, hstep, List.length_append, Nat.add_assoc]
  rfl

/-- The five steps of a frame, from its first place. -/
theorem execTimes_frame {f : Instr} (hf : f.command? = none) {s : State} (hb : s.seqState = .busy) (h0 : s.step.toNat % 5 = 0)
    (hl : s.step.toNat < scriptLength s.cmd s.arg) (ha : s.Answers (frameEvents f)) :
    execTimes 5 f s = .next (issueAll (frameEvents f) s) := by
  have run := execTimes_issueAll (R := fun es t => t.Sends f s.step.toNat es) (State.Sends.exec_cons hf) (State.Sends.issue hf)
    (frameEvents f) [] (by rw [List.append_nil]; exact sends_first hb h0 hl) ha 0
  rw [length_frameEvents hf] at run
  exact run.1

/-- The answers of three transfers in a row. -/
theorem answers_of_three {s : State} {es : List Event} (hes : transferCount es = 3) {r : Nat → Byte}
    (ha : ∀ k < 3, s.answerAt k = .byte (r k)) : s.Answers es :=
  fun k hk => ⟨r k, ha k (by omega)⟩

/-- The answers to the three transfers of a frame, of which the first two are `e1` and `e2`. -/
theorem answers_in_frame {e1 e2 : Event} (h1 : transferCount [e1] = 1) (h2 : transferCount [e2] = 1) {s : State} {r : Nat → Byte}
    (ha : ∀ k < 3, s.answerAt k = .byte (r k)) :
    (issue .sel s).answerAt 0 = .byte (r 0) ∧ (issue e1 (issue .sel s)).answerAt 0 = .byte (r 1) ∧
      (issue e2 (issue e1 (issue .sel s))).answerAt 0 = .byte (r 2) := by
  have sel_takes_none : transferCount [.sel] = 0 := rfl
  simp only [answerAt_issue, h1, h2, sel_takes_none]
  exact ⟨ha 0 (by decide), ha 1 (by decide), ha 2 (by decide)⟩

theorem drop_three (l : List XferAnswer) : l.tail.tail.tail = l.drop 3 := by
  simp only [← List.drop_one, List.drop_drop]

/-- Three bytes sent inside one chip-select assertion, all answered: the answers reach no register. -/
theorem issueAll_sendBytes (g : Bytes3) {s : State} {r : Nat → Byte} (ha : ∀ k < 3, s.answerAt k = .byte (r k)) :
    issueAll (sendBytes g) s = { s with
      step := s.step + 5, answers := s.answers.drop 3, draws := s.draws + 3
      trace := s.trace ++ [.sel, .tx g.byte0 (.byte (r 0)), .tx g.byte1 (.byte (r 1)), .tx g.byte2 (.byte (r 2)), .desel] } := by
  obtain ⟨a0, a1, a2⟩ := answers_in_frame (e1 := .tx g.byte0) (e2 := .tx g.byte1) rfl rfl ha
  simp only [sendBytes, issueAll_cons, issueAll_nil]
  rw [issue_tx_answered _ a2, issue_tx_answered _ a1, issue_tx_answered _ a0]
  simp [issue, State.record, State.advance, BitVec.add_assoc, drop_three]

/-- Three DUMMY bytes inside one chip-select assertion, all answered: the answers are RXBUF. -/
theorem issueAll_readbackPhase {s : State} {r : Nat → Byte} (ha : ∀ k < 3, s.answerAt k = .byte (r k)) :
    issueAll readbackPhase s = { s with
      step := s.step + 5, answers := s.answers.drop 3, draws := s.draws + 3, rxbuf := ⟨r 0, r 1, r 2⟩
      trace := s.trace ++ [.sel, .tx 0x00 (.byte (r 0)), .tx 0x00 (.byte (r 1)), .tx 0x00 (.byte (r 2)), .desel] } := by
  obtain ⟨a0, a1, a2⟩ := answers_in_frame (e1 := .cap 0) (e2 := .cap 1) rfl rfl ha
  simp only [readbackPhase, issueAll_cons, issueAll_nil]
  rw [issue_cap_answered _ a2, issue_cap_answered _ a1, issue_cap_answered _ a0]
  simp [issue, State.record, State.advance, BitVec.add_assoc, drop_three]

/-- Settles O33: a sent frame's five events are three bytes inside one assertion. -/
theorem sentFrameRunsToItsEnd : Obligations.SentFrameRunsToItsEnd := by
  intro f w s r hw hf hb h0 hl ha
  have events := frameEvents_eq_sendBytes hw hf
  have count : transferCount (frameEvents f) = 3 := by rw [events]; rfl
  rw [execTimes_frame (command?_of_encode hw) hb h0 hl (answers_of_three count ha), events, issueAll_sendBytes _ ha]

/-- Settles O34: DUMMY's five events are the readback phase. -/
theorem readbackPhaseCapturesThreeBytes : Obligations.ReadbackPhaseCapturesThreeBytes := fun _ _ hb h0 hl ha =>
  (execTimes_frame (f := .dummy) rfl hb h0 hl (answers_of_three rfl ha)).trans (congrArg Host.Outcome.next (issueAll_readbackPhase ha))

/-! ### A whole command that completes -/

/-- A running command that has advanced has the other events left. -/
theorem State.Runs.issue {i : Instr} {e : Event} {es : List Event} {s : State} (h : s.Runs i (e :: es)) (advances : s.AdvancesTo (issue e s)) :
    (issue e s).Runs i es := by
  obtain ⟨hi, hb, issued, hs, hstep⟩ := h
  obtain ⟨hcmd, harg, -⟩ := issue_frame e s
  have inside : s.step.toNat < scriptLength s.cmd s.arg := by simp [(script_length hs).2.2, hstep]
  refine ⟨by rwa [hcmd, harg], advances.seqState.trans hb, issued ++ [e], by rwa [hcmd, harg, List.append_assoc], ?_⟩
  rw [advances.step, toNat_step_succ inside, hstep, List.length_append]
  rfl

/-- The place of a running command, by what is left of its script. -/
theorem State.Runs.step_add_length {i : Instr} {es sc : List Event} {s : State} (h : s.Runs i es) (hs : script s.cmd s.arg = some sc) :
    s.step.toNat + es.length = sc.length := by
  obtain ⟨-, -, issued, hs', hstep⟩ := h
  obtain rfl := Option.some.inj (hs.symm.trans hs')
  rw [hstep, List.length_append]

/-- The steps of a running command as long as its transfers are answered. -/
theorem State.Runs.execTimes {i : Instr} (es rest : List Event) {s : State} (h : s.Runs i (es ++ rest)) (ha : s.Answers es) (n : Nat) :
    execTimes (es.length + n) i s = Machine.execTimes n i (issueAll es s) ∧ (issueAll es s).Runs i rest :=
  execTimes_issueAll (R := fun es t => t.Runs i es) State.Runs.exec_cons State.Runs.issue es rest h ha n

/-- Accepting a command takes no answer. -/
theorem answerAt_accept (c : Code) (arg : Arg) (s : State) (k : Nat) : (accept c arg s).answerAt k = s.answerAt k :=
  State.answerAt_congr rfl rfl k

/-- A whole command from idle, all its transfers answered. -/
theorem execTimes_command {i : Instr} {c : Code} {arg : Arg} {sc : List Event} (hi : i.command? = some (c, arg)) (hs : script c arg = some sc)
    {s : State} (hidle : s.seqState = .idle) (ha : (accept c arg s).Answers sc) :
    execTimes (sc.length + 2) i s = .next (completeFor c (issueAll sc (accept c arg s))) := by
  have left : (accept c arg s).Runs i (sc ++ []) := by rw [List.append_nil]; exact runs_accept hi hs s
  obtain ⟨run, at_end⟩ := left.execTimes sc [] ha 1
  obtain ⟨hcmd, -⟩ := issueAll_frame sc (accept c arg s)
  rw [execTimes_of_next (exec_accept hi hidle), run, execTimes_of_next at_end.exec_nil, hcmd]
  rfl

/-- A command of one write frame. -/
theorem execTimes_oneWrite {i : Instr} {c : Code} {arg : Arg} {g : Bytes3} (hi : i.command? = some (c, arg)) (hw : isReadCode c = false)
    (hs : script c arg = some (sendBytes g)) {s : State} (hidle : s.seqState = .idle) {r : Nat → Byte}
    (ha : ∀ k < 3, s.answerAt k = .byte (r k)) :
    execTimes 7 i s = .next { s with
      cmd := c, arg := arg, step := 5, err := false, errStep := 0, done := true, seqState := .idle, inject := none
      answers := s.answers.drop 3, draws := s.draws + 3
      trace := s.trace ++ [.sel, .tx g.byte0 (.byte (r 0)), .tx g.byte1 (.byte (r 1)), .tx g.byte2 (.byte (r 2)), .desel] } := by
  have ha' : ∀ k < 3, (accept c arg s).answerAt k = .byte (r k) := fun k hk => (answerAt_accept c arg s k).trans (ha k hk)
  refine (execTimes_command hi hs hidle (answers_of_three rfl ha')).trans ?_
  rw [completeFor_write hw, issueAll_sendBytes g ha']
  rfl

/-- The answers after the three of a first frame. -/
theorem answerAt_second {c : Code} {arg : Arg} {s : State} {r : Nat → Byte} (ha : ∀ k < 6, s.answerAt k = .byte (r k)) (g : Bytes3) :
    ∀ k < 3, (issueAll (sendBytes g) (accept c arg s)).answerAt k = .byte (r (3 + k)) := fun k hk =>
  ((answerAt_issueAll _ _ _).trans (answerAt_accept c arg s _)).trans (ha (3 + k) (by omega))

/-- A whole command of a sent frame and a second frame, all transfers answered. -/
theorem execTimes_twoFrames {i : Instr} {c : Code} {arg : Arg} {g : Bytes3} {es : List Event} (hi : i.command? = some (c, arg))
    (hs : script c arg = some (sendBytes g ++ es)) (hlen : es.length = 5) (hcount : transferCount es = 3) {s : State}
    (hidle : s.seqState = .idle) {r : Nat → Byte} (ha : ∀ k < 6, s.answerAt k = .byte (r k)) :
    execTimes 12 i s = .next (completeFor c (issueAll es (issueAll (sendBytes g) (accept c arg s)))) := by
  have count : transferCount (sendBytes g ++ es) = 6 := by
    rw [transferCount, List.countP_append]
    exact congrArg (3 + ·) hcount
  have answered : (accept c arg s).Answers (sendBytes g ++ es) := fun k hk => ⟨r k, (answerAt_accept c arg s k).trans (ha k (by omega))⟩
  have run := execTimes_command hi hs hidle answered
  rwa [List.length_append, hlen, issueAll_append] at run

/-- A command of two write frames. -/
theorem execTimes_twoWrites {i : Instr} {c : Code} {arg : Arg} {g h : Bytes3} (hi : i.command? = some (c, arg)) (hw : isReadCode c = false)
    (hs : script c arg = some (sendBytes g ++ sendBytes h)) {s : State} (hidle : s.seqState = .idle) {r : Nat → Byte}
    (ha : ∀ k < 6, s.answerAt k = .byte (r k)) :
    execTimes 12 i s = .next { s with
      cmd := c, arg := arg, step := 10, err := false, errStep := 0, done := true, seqState := .idle, inject := none
      answers := s.answers.drop 6, draws := s.draws + 6
      trace := s.trace ++ [.sel, .tx g.byte0 (.byte (r 0)), .tx g.byte1 (.byte (r 1)), .tx g.byte2 (.byte (r 2)), .desel,
        .sel, .tx h.byte0 (.byte (r 3)), .tx h.byte1 (.byte (r 4)), .tx h.byte2 (.byte (r 5)), .desel] } := by
  have first : ∀ k < 3, (accept c arg s).answerAt k = .byte (r k) := fun k hk => (answerAt_accept c arg s k).trans (ha k (by omega))
  rw [execTimes_twoFrames hi hs rfl rfl hidle ha, completeFor_write hw, issueAll_sendBytes h (answerAt_second ha g), issueAll_sendBytes g first]
  simp [completeWrite, State.setDone, accept_eq]

/-- A read command: a command phase and the readback phase. -/
theorem execTimes_read {i : Instr} {c : Code} {arg : Arg} {g : Bytes3} (hi : i.command? = some (c, arg)) (hread : isReadCode c = true)
    (hs : script c arg = some (sendBytes g ++ readbackPhase)) {s : State} (hidle : s.seqState = .idle) {r : Nat → Byte}
    (ha : ∀ k < 6, s.answerAt k = .byte (r k)) :
    execTimes 12 i s = .next { s with
      cmd := c, arg := arg, step := 10, err := false, errStep := 0, done := true, seqState := .idle, inject := none
      rxbuf := ⟨r 3, r 4, r 5⟩, result := (r 3).extractLsb' 0 4 ++ r 4 ++ r 5
      answers := s.answers.drop 6, draws := s.draws + 6
      trace := s.trace ++ [.sel, .tx g.byte0 (.byte (r 0)), .tx g.byte1 (.byte (r 1)), .tx g.byte2 (.byte (r 2)), .desel,
        .sel, .tx 0x00 (.byte (r 3)), .tx 0x00 (.byte (r 4)), .tx 0x00 (.byte (r 5)), .desel] } := by
  have first : ∀ k < 3, (accept c arg s).answerAt k = .byte (r k) := fun k hk => (answerAt_accept c arg s k).trans (ha k (by omega))
  rw [execTimes_twoFrames hi hs rfl rfl hidle ha, completeFor, if_pos hread, issueAll_readbackPhase (answerAt_second ha g),
    issueAll_sendBytes g first]
  simp [completeRead, State.setDone, accept_eq, fdec_eq_append]

/-- Settles O37: each of the three is one write frame, whose bytes O21 gives. -/
theorem writeCommandsRunToCompletion : Obligations.WriteCommandsRunToCompletion := by
  intro arg s r hidle ha
  obtain ⟨applyConfig, -, -, -, -, setOutput, -, setClear, -⟩ := eventsOfEachCommandByteByByte arg
  exact ⟨execTimes_oneWrite rfl rfl (g := ⟨_, _, _⟩) applyConfig hidle ha, execTimes_oneWrite rfl rfl (g := ⟨_, _, _⟩) setOutput hidle ha,
    execTimes_oneWrite rfl rfl (g := ⟨_, _, _⟩) setClear hidle ha⟩

/-- Settles O38: each trigger is two write frames. -/
theorem triggerCommandsRunToCompletion : Obligations.TriggerCommandsRunToCompletion := by
  intro arg s r hidle ha
  exact ⟨execTimes_twoWrites (g := ⟨0x40, 0x00, 0x01⟩) (h := ⟨0x40, 0x00, 0x00⟩) rfl rfl rfl hidle ha,
    execTimes_twoWrites (g := ⟨0x40, 0x00, 0x02⟩) (h := ⟨0x40, 0x00, 0x00⟩) rfl rfl rfl hidle ha,
    execTimes_twoWrites (g := ⟨0x40, 0x00, 0x04⟩) (h := ⟨0x40, 0x00, 0x00⟩) rfl rfl rfl hidle ha⟩

/-- Settles O39: each read is a command phase and a readback phase. -/
theorem readCommandsRunToCompletion : Obligations.ReadCommandsRunToCompletion := by
  intro arg s r hidle ha
  exact ⟨execTimes_read (g := ⟨0xA0, 0x00, 0x00⟩) rfl rfl rfl hidle ha, execTimes_read (g := ⟨0x90, 0x00, 0x00⟩) rfl rfl rfl hidle ha,
    execTimes_read (g := ⟨0xB0, 0x00, 0x00⟩) rfl rfl rfl hidle ha⟩

/-! ### A command that aborts (60_exceptions.md R202, R203) -/

/-- The transfers among events are those that are neither SEL nor DESEL. -/
theorem length_filter_transfers (es : List Event) : (es.filter fun e => e ≠ .sel ∧ e ≠ .desel).length = transferCount es := by
  rw [transferCount, List.countP_eq_length_filter]
  congr 2
  funext e
  cases e <;> rfl

/-- Settles O40: the events before the failing one are answered and issued, the failing one takes the exception at its own step. -/
theorem commandAbortsAtItsFirstFailingTransfer : Obligations.CommandAbortsAtItsFirstFailingTransfer := by
  intro i c arg sc s p b info hi hs hidle hp answered fails
  rw [length_filter_transfers] at answered fails
  obtain ⟨e, he, hreq⟩ := Option.map_eq_some_iff.1 hp
  obtain ⟨hlt, rfl⟩ := List.getElem?_eq_some_iff.1 he
  have hlen : (sc.take p).length = p := List.length_take_of_le (Nat.le_of_lt hlt)
  have left : (accept c arg s).Runs i (sc.take p ++ sc.drop p) := by rw [List.take_append_drop]; exact runs_accept hi hs s
  have ha : (accept c arg s).Answers (sc.take p) := fun k hk => by rw [answerAt_accept]; exact answered k hk
  obtain ⟨run, here⟩ := left.execTimes _ _ ha 1
  obtain ⟨hcmd, harg, hresult, hport⟩ := issueAll_frame (sc.take p) (accept c arg s)
  have requests := issueAll_requests (sc.take p) (accept c arg s)
  have fails_here : (issueAll (sc.take p) (accept c arg s)).answerAt 0 = .fail info := by
    rw [answerAt_issueAll, answerAt_accept]
    exact fails
  generalize issueAll (sc.take p) (accept c arg s) = u at *
  have step_eq : u.step.toNat = p := by
    have h := here.step_add_length (by rw [hcmd, harg]; exact hs)
    rw [List.length_drop] at h
    omega
  rw [List.drop_eq_getElem_cons hlt] at here
  have aborts := here.exec_cons.trans (congrArg Host.Outcome.next (issue_failed hreq fails_here))
  rw [hlen] at run
  refine ⟨_, (execTimes_of_next (exec_accept hi hidle) (p + 1)).trans (run.trans (execTimes_of_next aborts 0)), rfl, rfl, rfl, step_eq, step_eq,
    rfl, hcmd, harg, hresult, hport, ?_, List.getLast?_concat⟩
  rw [List.map_append, requests, List.take_succ_eq_append_getElem hlt, List.map_append, List.map_singleton, List.map_singleton, hreq,
    List.append_assoc]
  rfl

/-! ### A command in one go (40_frame_codec.md R113 to R116, 20_memory.md R63) -/

theorem stepTimes_of_next {s t : State} (h : step s = .next t) (n : Nat) : stepTimes (n + 1) s = stepTimes n t := by
  rw [stepTimes, h]

/-- More steps go on from where fewer ended. -/
theorem stepTimes_add {n : Nat} {s t : State} (h : stepTimes n s = .next t) (m : Nat) : stepTimes (n + m) s = stepTimes m t := by
  induction n generalizing s with
  | zero =>
    cases h
    rw [Nat.zero_add]
  | succ n ih =>
    rw [stepTimes] at h
    cases hstep : step s with
    | next u =>
      rw [hstep] at h
      rw [Nat.add_right_comm, stepTimes_of_next hstep]
      exact ih h
    | fault f => rw [hstep] at h; cases h
    | refused r => rw [hstep] at h; cases h

/-- Without a reset to come, sampling the reset input changes nothing. -/
theorem sampleReset_of_nil {s : State} (h : s.resetLine = []) : s.resetAsserted = false ∧ s.sampleReset = s := by
  have stays : s.resetLine.tail = s.resetLine := by rw [h]; rfl
  exact ⟨by simp [State.resetAsserted, h], by rw [State.sampleReset, stays]⟩

/-- An idle block with nothing presented and no reset to come stays as it is. -/
theorem stepTimes_waiting {s : State} (hidle : s.seqState = .idle) (hp : s.port = []) (hreset : s.resetLine = []) (n : Nat) :
    stepTimes n s = .next s := by
  obtain ⟨hr, hsample⟩ := sampleReset_of_nil hreset
  have stays : step s = .next s := by rw [step_of_nothing hr hidle hp, hsample]
  induction n with
  | zero => rfl
  | succ n ih => rw [stepTimes_of_next stays, ih]

theorem runScript_of_busy {fin : State → State} {e : Event} {es : List Event} {s : State} (h : (issue e s).seqState = .busy) :
    runScript fin (e :: es) s = runScript fin es (issue e s) := by
  rw [runScript, h]

theorem runScript_of_idle {fin : State → State} {e : Event} {es : List Event} {s : State} (h : (issue e s).seqState = .idle) :
    runScript fin (e :: es) s = issue e s := by
  rw [runScript, h]

/-- A running command's steps, from here to its end, are the rest of it in one go; each event left takes at most one of them. -/
theorem stepTimes_runScript {i : Instr} (es : List Event) {s : State} (h : s.Runs i es) (hinj : s.inject = none) (hreset : s.resetLine = []) :
    ∃ n ≤ es.length + 1, stepTimes n s = .next (runScript (completeFor s.cmd) es s) := by
  induction es generalizing s with
  | nil =>
    obtain ⟨hr, hsample⟩ := sampleReset_of_nil hreset
    have completes : step s = .next (completeFor s.cmd s) := by rw [step_of_latched hr h.busy hinj h.command, hsample, h.exec_nil]
    exact ⟨1, Nat.le_refl _, stepTimes_of_next completes 0⟩
  | cons e es ih =>
    obtain ⟨hr, hsample⟩ := sampleReset_of_nil hreset
    have issues : step s = .next (issue e s) := by rw [step_of_latched hr h.busy hinj h.command, hsample, h.exec_cons]
    obtain advances | ⟨b, info, -, -, -, aborts⟩ := issue_outcome e s
    · obtain ⟨hcmd, -, -, -, hline⟩ := issue_frame e s
      obtain ⟨n, hn, run⟩ := ih (h.issue advances) (advances.inject.trans hinj) (hline.trans hreset)
      refine ⟨n + 1, by rw [List.length_cons]; omega, ?_⟩
      rw [stepTimes_of_next issues, run, hcmd, runScript_of_busy (advances.seqState.trans h.busy)]
    · have ended : (issue e s).seqState = .idle := by rw [aborts]; rfl
      refine ⟨1, by omega, ?_⟩
      rw [stepTimes_of_next issues, runScript_of_idle ended]
      rfl

/-- `t` is the end of the command that runs in `s`, at most `n` events later. -/
structure State.EndsIn (s : State) (n : Nat) (t : State) : Prop where
  idle : t.seqState = .idle
  done : t.done = true
  cmd : t.cmd = s.cmd
  arg : t.arg = s.arg
  port : t.port = s.port
  resetLine : t.resetLine = s.resetLine
  trace_ge : s.trace.length ≤ t.trace.length
  trace_le : t.trace.length ≤ s.trace.length + n

/-- A command in one go ends, completed or aborted. -/
theorem runScript_ends (c : Code) (es : List Event) {s : State} (hb : s.seqState = .busy) :
    s.EndsIn es.length (runScript (completeFor c) es s) := by
  induction es generalizing s with
  | nil =>
    obtain ⟨hcmd, harg, hport, -, htrace, hline, -⟩ := completeFor_frame c s
    exact ⟨completeFor_seqState c s, completeFor_done c s, hcmd, harg, hport, hline, by rw [runScript, htrace], by rw [runScript, htrace]; rfl⟩
  | cons e es ih =>
    obtain ⟨hcmd, harg, -, hport, hline⟩ := issue_frame e s
    obtain ⟨x, -, htrace⟩ := issue_trace e s
    have grown : (issue e s).trace.length = s.trace.length + 1 := by rw [htrace, List.length_append]; rfl
    obtain advances | ⟨b, info, -, -, -, aborts⟩ := issue_outcome e s
    · have busy := advances.seqState.trans hb
      obtain ⟨idle, done, cmd, arg, port, line, ge, le⟩ := ih busy
      rw [runScript_of_busy busy]
      exact ⟨idle, done, cmd.trans hcmd, arg.trans harg, port.trans hport, line.trans hline, by omega, by rw [List.length_cons]; omega⟩
    · have ended : (issue e s).seqState = .idle := by rw [aborts]; rfl
      rw [runScript_of_idle ended]
      exact ⟨ended, by rw [aborts]; rfl, hcmd, harg, hport, hline, by omega, by rw [List.length_cons]; omega⟩

/-- Settles O41: one step accepts, the others are the command in one go (`stepTimes_runScript`), and the ones left over wait. -/
theorem sequencerRefinesTheWholeCommand : Obligations.SequencerRefinesTheWholeCommand := by
  intro s c arg hidle hreset hinj hp known
  obtain ⟨sc, hs⟩ := script_of_known arg known
  obtain ⟨i, hi⟩ := command_of_script hs
  obtain ⟨hr, -⟩ := sampleReset_of_nil hreset
  have accepts : step s = .next (accept c arg { s with port := [] }) := by
    rw [step_of_known hr hidle hp known, hreset]
    simp [accept_eq]
  obtain ⟨n, hn, run⟩ := stepTimes_runScript sc (runs_accept hi hs { s with port := [] }) rfl hreset
  rw [accept_cmd] at run
  have ended := runScript_ends c sc (s := accept c arg { s with port := [] }) rfl
  obtain ⟨m, hm⟩ := Nat.exists_eq_add_of_le hn
  rw [(script_length hs).2.2, show sc.length + 2 = (n + m) + 1 by omega, stepTimes_of_next accepts, stepTimes_add run,
    stepTimes_waiting ended.idle ended.port (ended.resetLine.trans hreset), commandOutcome, hs]
  rfl

/-- Settles O42: a safe busy state runs a command, whose events left are at most ten. -/
theorem everyRunningCommandEnds : Obligations.EveryRunningCommandEnds := by
  intro s hsafe hinj hb hreset
  obtain ⟨some_script, step_le⟩ := hsafe.running hb
  obtain ⟨sc, hs⟩ := Option.isSome_iff_exists.1 some_script
  obtain ⟨i, hi⟩ := command_of_script hs
  obtain ⟨-, hlen, hl⟩ := script_length hs
  have runs : s.Runs i (sc.drop s.step.toNat) :=
    ⟨hi, hb, sc.take s.step.toNat, by rw [List.take_append_drop]; exact hs, (List.length_take_of_le (by omega)).symm⟩
  obtain ⟨n, hn, run⟩ := stepTimes_runScript _ runs hinj hreset
  obtain ⟨idle, done, cmd, arg, port, -, ge, le⟩ := runScript_ends s.cmd (sc.drop s.step.toNat) hb
  rw [List.length_drop] at hn le
  exact ⟨n, _, by omega, run, idle, done, cmd, arg, port, ge, by omega⟩

end Sys2Proof.Machine
end

section
/-! PROOF. The remaining statements about every step of the machine: what each step may write, and the register invariant. -/

namespace Sys2Proof.Machine

/-! ### What a step may write -/

theorem transportRequest_of_running {s : State} (hr : s.resetAsserted = false) : s.transportRequest = s.dueEvent.map Event.request := by
  simp [State.transportRequest, hr]

/-- Settles O47: only the due event is recorded, and it is the one on the port. -/
theorem eachStepIssuesTheRequestOnThePort : Obligations.EachStepIssuesTheRequestOnThePort := by
  intro s t hr h
  rw [transportRequest_of_running hr]
  obtain ⟨-, hdue, rfl⟩ | ⟨c, arg, rest, -, hdue, -, rfl⟩ | ⟨e, inj, -, hdue, rfl⟩ | ⟨-, hdue, -, rfl⟩ := step_acts hr h
  · exact .inl ⟨by rw [hdue]; rfl, rfl⟩
  · exact .inl ⟨by rw [hdue]; rfl, rfl⟩
  · obtain ⟨x, hx, htrace⟩ := issue_trace e { s.sampleReset with inject := inj }
    exact .inr ⟨x, by rw [hdue, hx]; rfl, htrace⟩
  · obtain ⟨-, -, -, -, htrace, -⟩ := completeFor_frame s.cmd s.sampleReset
    exact .inl ⟨by rw [hdue]; rfl, htrace⟩

/-- An event that changes RXBUF is an answered `CAP`, which writes its own place (40_frame_codec.md R109). -/
theorem issue_rxbuf {e : Event} {s : State} (h : (issue e s).rxbuf ≠ s.rxbuf) :
    ∃ j r, e = .cap j ∧ s.answerAt 0 = .byte r ∧
      (issue e s).rxbuf = ⟨if j = 0 then r else s.rxbuf.byte0, if j = 1 then r else s.rxbuf.byte1, if j = 2 then r else s.rxbuf.byte2⟩ := by
  cases ha : s.answerAt 0 with
  | byte r =>
    cases e with
    | sel | desel => exact absurd rfl h
    | tx b => exact absurd (by rw [issue_tx_answered b ha]) h
    | cap j => exact ⟨j, r, rfl, rfl, by rw [issue_cap_answered j ha]⟩
  | fail info =>
    cases e with
    | sel | desel => exact absurd rfl h
    | tx _ | cap _ => exact absurd (by rw [issue_failed rfl ha]) h

/-- Settles O48: of what a step does, only an event can write RXBUF. -/
theorem onlyReadbackEventsWriteRxbuf : Obligations.OnlyReadbackEventsWriteRxbuf := by
  intro s t hr h changed
  obtain ⟨-, -, rfl⟩ | ⟨c, arg, rest, -, -, -, rfl⟩ | ⟨e, inj, -, hdue, rfl⟩ | ⟨-, -, -, rfl⟩ := step_acts hr h
  · exact absurd rfl changed
  · exact absurd rfl changed
  · obtain ⟨j, r, rfl, ha, hrx⟩ := issue_rxbuf (s := { s.sampleReset with inject := inj }) changed
    exact ⟨j, r, hdue, ha, hrx⟩
  · obtain ⟨-, -, -, hrx, -⟩ := completeFor_frame s.cmd s.sampleReset
    exact absurd hrx changed

/-- Settles O49: of what a step does, only completing can write RESULT, and only of a read. -/
theorem onlyCompletedReadsWriteResult : Obligations.OnlyCompletedReadsWriteResult := by
  intro s t hr h changed
  obtain ⟨-, -, rfl⟩ | ⟨c, arg, rest, -, -, -, rfl⟩ | ⟨e, inj, -, -, rfl⟩ | ⟨hb, -, hend, rfl⟩ := step_acts hr h
  · exact absurd rfl changed
  · exact absurd rfl changed
  · obtain ⟨-, -, hresult, -⟩ := issue_frame e { s.sampleReset with inject := inj }
    exact absurd hresult changed
  · cases hread : isReadCode s.cmd with
    | false => exact absurd (by rw [completeFor_write hread]; rfl) changed
    | true =>
      have reads : completeFor s.cmd = completeRead := if_pos hread
      rw [reads]
      exact ⟨hb, rfl, hend, rfl, rfl, rfl, rfl⟩

/-- Settles O50: a busy step keeps both (`step_of_busy_keeps`), waiting keeps both, and accepting takes them from the port. -/
theorem onlyAcceptingWritesCommandAndArgument : Obligations.OnlyAcceptingWritesCommandAndArgument := by
  intro s t hr h
  have busy_keeps (hb : s.seqState = .busy) : t.cmd = s.cmd ∧ t.arg = s.arg := (step_of_busy_keeps hr hb h).2
  refine ⟨busy_keeps, fun changed => ?_⟩
  have not_kept : ¬ (t.cmd = s.cmd ∧ t.arg = s.arg) := fun ⟨hcmd, harg⟩ => changed.elim (· hcmd) (· harg)
  obtain ⟨-, -, rfl⟩ | ⟨c, arg, rest, hidle, -, hp, rfl⟩ | ⟨e, inj, hb, -⟩ | ⟨hb, -⟩ := step_acts hr h
  · exact absurd ⟨rfl, rfl⟩ not_kept
  · exact ⟨hidle, rfl, hp⟩
  · exact absurd (busy_keeps hb) not_kept
  · exact absurd (busy_keeps hb) not_kept

/-- Settles O51: waiting and an event that is answered keep the flags; accepting, an abort and completing write them. -/
theorem flagsChangeOnlyAsTheirRuleSays : Obligations.FlagsChangeOnlyAsTheirRuleSays := by
  intro s t hr h
  obtain ⟨hidle, -, rfl⟩ | ⟨c, arg, rest, hidle, -, -, rfl⟩ | ⟨e, inj, hb, -, ht⟩ | ⟨hb, -, -, rfl⟩ := step_acts hr h
  · simp +contextual [hidle]
  · simp [hidle]
  · obtain advances | ⟨b, info, -, -, fails, aborts⟩ := issue_outcome e { s.sampleReset with inject := inj }
    · have busy : t.seqState = .busy := ht ▸ advances.seqState.trans hb
      have done_stays : t.done = s.done := ht ▸ advances.done
      have err_stays : t.err = s.err := ht ▸ advances.err
      simp +contextual [done_stays, err_stays, hb, busy]
    · have fails_here : s.answerAt 0 = .fail info := fails
      rw [ht, aborts]
      simp [hb, fails_here]
  · have err_stays := completeFor_err s.cmd s.sampleReset
    simp +contextual [hb, err_stays]

/-! ### The register invariant (10_state.md R24, R25; 60_exceptions.md R202) -/

/-- A running command has raised nothing and is not over. -/
theorem State.Safe.of_busy {s : State} (h : s.Safe) (hb : s.seqState = .busy) : s.done = false ∧ s.err = false ∧ s.errStep = 0 := by
  have not_done : s.done = false := Bool.eq_false_of_not_eq_true fun done => by cases hb.symm.trans (h.ended done).1
  have not_err : s.err = false := Bool.eq_false_of_not_eq_true fun err => by cases not_done.symm.trans (h.aborted err).1
  exact ⟨not_done, not_err, h.no_err not_err⟩

/-- A block that has not been used since its reset, or has just accepted a command, is safe. -/
theorem safe_of_fresh {s : State} (hstep : s.step = 0) (herr : s.err = false) (herrStep : s.errStep = 0) (hdone : s.done = false)
    (hinj : s.inject = none) (hrun : s.seqState = .busy → (script s.cmd s.arg).isSome = true) : s.Safe where
  step_le := by simp [hstep]
  no_err := fun _ => herrStep
  aborted := by simp [herr]
  ended := by simp [hdone]
  completed := by simp [hdone]
  running := fun hb => ⟨hrun hb, by simp [hstep]⟩
  placed := by simp [hinj]

/-- Settles O54: `safe_of_fresh`. -/
theorem resetStateIsSafe : Obligations.ResetStateIsSafe := safe_of_fresh rfl rfl rfl rfl rfl nofun

/-- Completing keeps the invariant. -/
theorem State.Safe.completeFor {s : State} (h : s.Safe) (hb : s.seqState = .busy) (hinj : s.inject = none)
    (hend : s.step.toNat = scriptLength s.cmd s.arg) : (completeFor s.cmd s).Safe := by
  obtain ⟨-, not_err, no_errStep⟩ := h.of_busy hb
  rw [completeFor_eq]
  exact ⟨h.step_le, fun _ => no_errStep, fun err => (by cases not_err.symm.trans err), fun _ => ⟨rfl, (h.running hb).1⟩, fun _ _ => hend, nofun,
    fun placed => by simp [hinj] at placed⟩

/-- An event keeps the invariant, where its transfers stand at the places of transfers, and a placed frame is dropped at its last event. -/
theorem State.Safe.issue {e : Event} {s : State} (h : s.Safe) (hb : s.seqState = .busy) (hl : s.step.toNat < scriptLength s.cmd s.arg)
    (place : e.exchange.isSome = true → s.step ∈ transferSteps) (dropped : s.step.toNat % 5 = 4 → s.inject = none) : (issue e s).Safe := by
  obtain ⟨known, -⟩ := h.running hb
  obtain ⟨not_done, not_err, no_errStep⟩ := h.of_busy hb
  obtain advances | ⟨b, info, hx, -, -, ht⟩ := issue_outcome e s
  · obtain ⟨hcmd, harg, -⟩ := issue_frame e s
    have step_eq : (Machine.issue e s).step.toNat = s.step.toNat + 1 := by rw [advances.step, toNat_step_succ hl]
    have inside : s.step.toNat + 1 ≤ scriptLength (Machine.issue e s).cmd (Machine.issue e s).arg := by rw [hcmd, harg]; omega
    obtain ⟨sc, hs⟩ := Option.isSome_iff_exists.1 known
    obtain ⟨-, hlen, hlength⟩ := script_length hs
    constructor
    case step_le => omega
    case no_err => exact fun _ => advances.errStep.trans no_errStep
    case aborted => simp [advances.err, not_err]
    case ended => simp [advances.done, not_done]
    case completed => simp [advances.done, not_done]
    case running => exact fun _ => ⟨by rwa [hcmd, harg], by rwa [step_eq]⟩
    case placed =>
      intro placed
      rw [advances.inject] at placed
      have not_last : s.step.toNat % 5 ≠ 4 := fun last => by simp [dropped last] at placed
      exact ⟨advances.seqState.trans hb, by rw [step_eq, hcmd, harg]; omega⟩
  · rw [ht]
    exact ⟨h.step_le, nofun, fun _ => ⟨rfl, rfl, place hx⟩, fun _ => ⟨rfl, known⟩, nofun, nofun, nofun⟩

/-- A transfer of a frame stands between its SEL and its DESEL. -/
theorem place_of_exchange {f : Instr} (hf : f.command? = none) {j : Nat} {e : Event} (he : (frameEvents f)[j]? = some e)
    (hx : e.exchange.isSome = true) : 1 ≤ j ∧ j ≤ 3 := by
  obtain ⟨e1, e2, e3, shape, -⟩ := frameEvents_shape hf
  rw [shape] at he
  match j with
  | 0 | 4 => cases he; cases hx
  | 1 | 2 | 3 => exact ⟨by decide, by decide⟩
  | _ + 5 => cases he

/-- These are the steps at which an abort can happen (41_configuration.md R136, R137). -/
theorem mem_transferSteps {k : BitVec 4} (hk : k.toNat < 10) (place : 1 ≤ k.toNat % 5 ∧ k.toNat % 5 ≤ 3) : k ∈ transferSteps := by
  revert k
  decide

/-- A transfer of a frame that is due stands at one of them. -/
theorem State.Safe.transfer_place {s : State} (h : s.Safe) (hb : s.seqState = .busy) (hl : s.step.toNat < scriptLength s.cmd s.arg) {f : Instr}
    (hf : f.command? = none) {e : Event} (he : (frameEvents f)[s.step.toNat % 5]? = some e) (hx : e.exchange.isSome = true) :
    s.step ∈ transferSteps := by
  obtain ⟨sc, hs⟩ := Option.isSome_iff_exists.1 (h.running hb).1
  obtain ⟨-, hlen, hlength⟩ := script_length hs
  exact mem_transferSteps (by omega) (place_of_exchange hf he hx)

/-- Settles O55: by what a step does; an event, of the script or placed, is an event of a frame at this place. -/
theorem everyStepKeepsTheRegistersSafe : Obligations.EveryStepKeepsTheRegistersSafe := by
  intro s t h hstep
  cases hr : s.resetAsserted with
  | true =>
    cases (step_of_reset hr).symm.trans hstep
    exact safe_of_fresh rfl rfl rfl rfl rfl nofun
  | false =>
    have sampled : s.sampleReset.Safe := ⟨h.step_le, h.no_err, h.aborted, h.ended, h.completed, h.running, h.placed⟩
    obtain ⟨-, -, rfl⟩ | ⟨c, arg, rest, -, -, hs, rfl⟩ | ⟨sc, e, hb, hinj, hs, he, rfl⟩ | ⟨sc, hb, hinj, hs, hend, rfl⟩ |
      ⟨w, f, e, hb, -, hf, -, hl, he, rfl⟩ := step_cases hr hstep
    · exact sampled
    · exact safe_of_fresh rfl rfl rfl rfl rfl fun _ => hs
    · have inside : s.step.toNat < sc.length := (List.getElem?_eq_some_iff.1 he).1
      have hl : s.step.toNat < scriptLength s.cmd s.arg := by rwa [(script_length hs).2.2]
      obtain ⟨i, hi⟩ := command_of_script hs
      obtain ⟨f, -, place, hf⟩ := frame_of_place hi hs inside
      exact sampled.issue hb hl (h.transfer_place hb hl hf ((script_getElem? hi hs place).symm.trans he)) fun _ => hinj
    · exact sampled.completeFor hb hinj (hend.trans (script_length hs).2.2.symm)
    · have placed : ({ s.sampleReset with inject := if s.step.toNat % 5 = 4 then none else some w } : State).Safe :=
        ⟨h.step_le, h.no_err, h.aborted, h.ended, h.completed, h.running, fun _ => ⟨hb, hl⟩⟩
      exact placed.issue hb hl (h.transfer_place hb hl (command?_of_decodeFrame hf) he) fun last => if_pos last

/-! ### What a step from a safe state can answer -/

/-- A running command inside its script or at its end answers a next state. -/
theorem exec_of_running {i : Instr} {s : State} (hi : i.command? = some (s.cmd, s.arg)) (hb : s.seqState = .busy)
    (hle : s.step.toNat ≤ scriptLength s.cmd s.arg) : ∃ t, exec i s = .next t := by
  obtain ⟨sc, hs⟩ := script_of_command hi
  obtain hl | hend := Nat.lt_or_eq_of_le hle
  · rw [(script_length hs).2.2] at hl
    exact ⟨_, exec_event hi hb hs (List.getElem?_eq_getElem hl)⟩
  · exact ⟨_, exec_end hi hb hend⟩

/-- A frame kind always answers a next state. -/
theorem exec_of_frame_next {f : Instr} (hf : f.command? = none) (s : State) : ∃ t, exec f s = .next t := by
  rw [exec_of_frame hf, sendFrame]
  split
  · exact ⟨_, rfl⟩
  · split
    · split <;> exact ⟨_, rfl⟩
    · exact ⟨_, rfl⟩

/-- A due frame decodes. -/
theorem decode_of_due {s : State} {w : FrameWord} (h : s.PlacedIsDue w) : ∃ f, decode (.frame w) = .ok f := by
  obtain ⟨i, f, -, -, -, hw⟩ | ⟨d, rfl, -⟩ := placedIsDue_cases h
  · exact ⟨f, decodeFrame_of_encode hw⟩
  · exact ⟨.wCtrl d, decodeFrame_of_encode rfl⟩

/-- A safe state's step answers a next state, or refuses a reserved word on the port, or refuses a placed frame that is not due. -/
theorem State.Safe.step_outcome {s : State} (h : s.Safe) :
    (∃ t, Machine.step s = .next t) ∨
    (∃ (c : Code) (arg : Arg) (rest : List CommandWord), s.seqState = .idle ∧ s.port = (c ++ arg) :: rest ∧ (c = 0 ∨ 10 ≤ c.toNat) ∧
      Machine.step s = .refused (.reservedCommand c)) ∨
    (∃ w, s.inject = some w ∧ ¬ s.PlacedIsDue w ∧ Machine.step s = .refused (.reservedFrame w)) := by
  cases hr : s.resetAsserted with
  | true => exact .inl ⟨_, step_of_reset hr⟩
  | false =>
    cases hq : s.seqState with
    | idle =>
      cases hp : s.port with
      | nil => exact .inl ⟨_, step_of_nothing hr hq hp⟩
      | cons w rest =>
        rw [← commandWord_fields w] at hp ⊢
        generalize w.extractLsb' 32 4 = c, w.extractLsb' 0 32 = arg at hp ⊢
        by_cases known : 1 ≤ c.toNat ∧ c.toNat ≤ 9
        · exact .inl ⟨_, step_of_known hr hq hp known⟩
        · have reserved := (reserved_iff c).2 known
          exact .inr (.inl ⟨c, arg, rest, rfl, rfl, reserved, (reservedCommandIsRefused s c arg rest hr hq hp).2 reserved⟩)
    | busy =>
      cases hinj : s.inject with
      | none =>
        obtain ⟨some_script, hle⟩ := h.running hq
        obtain ⟨sc, hs⟩ := Option.isSome_iff_exists.1 some_script
        obtain ⟨i, hi⟩ := command_of_script hs
        rw [step_of_latched hr hq hinj hi]
        exact .inl (exec_of_running hi hq hle)
      | some w =>
        by_cases due : s.PlacedIsDue w
        · obtain ⟨f, hd⟩ := decode_of_due due
          rw [step_of_placed hr hq hinj hd due]
          exact .inl (exec_of_frame_next (command?_of_decodeFrame hd) _)
        · exact .inr (.inr ⟨w, rfl, due, step_of_undue hr hq hinj due⟩)

/-- Settles O56: none of the three outcomes is a fault, and two are the refusals named. -/
theorem safeStatesNeverFault : Obligations.SafeStatesNeverFault := by
  intro s h
  obtain ⟨t, next⟩ | ⟨c, arg, rest, hidle, hp, reserved, refused⟩ | ⟨w, hinj, undue, refused⟩ := h.step_outcome
  · rw [next]
    exact ⟨nofun, nofun⟩
  · rw [refused]
    refine ⟨nofun, fun r hr => ?_⟩
    cases hr
    exact .inl ⟨c, rfl, hidle, reserved, arg, by rw [hp]; rfl⟩
  · rw [refused]
    refine ⟨nofun, fun r hr => ?_⟩
    cases hr
    exact .inr ⟨w, rfl, hinj, undue⟩

end Sys2Proof.Machine
end

section
/-! PROOF. The remaining statements about the transport trace, and the program text. -/

namespace Sys2Proof.Machine

/-! ### The trace as pieces of commands (20_memory.md R54, R61; 60_exceptions.md R203) -/

/-- A list of trace entries is one command's piece after the other. -/
def CommandTraces (l : List TraceEvent) : Prop := ∃ past : List (List TraceEvent), l = past.flatten ∧ ∀ es ∈ past, CommandTrace es

/-- One more piece. -/
theorem CommandTraces.append {l es : List TraceEvent} (h : CommandTraces l) (hes : CommandTrace es) : CommandTraces (l ++ es) := by
  obtain ⟨past, rfl, hpast⟩ := h
  refine ⟨past ++ [es], by simp, fun fs hfs => ?_⟩
  obtain old | new := List.mem_append.1 hfs
  · exact hpast fs old
  · rwa [List.mem_singleton.1 new]

/-- A legal trace of an idle block. -/
theorem traceLegal_idle_iff {s : State} (hidle : s.seqState = .idle) : s.TraceLegal ↔ s.inject = none ∧ CommandTraces s.trace := by
  simp only [State.TraceLegal, hidle, CommandTraces]
  refine and_congr_right fun _ => ⟨?_, ?_⟩
  · rintro ⟨past, now, htrace, hpast, rfl⟩
    exact ⟨past, by rw [htrace, List.append_nil], hpast⟩
  · rintro ⟨past, htrace, hpast⟩
    exact ⟨past, [], by rw [htrace, List.append_nil], hpast, rfl⟩

/-- A legal trace of a running command: its own piece is the events before the step. -/
theorem traceLegal_busy_iff {s : State} (hb : s.seqState = .busy) : s.TraceLegal ↔ s.inject = none ∧ ∃ old now sc,
    s.trace = old ++ now ∧ CommandTraces old ∧ script s.cmd s.arg = some sc ∧ s.step.toNat ≤ sc.length ∧
      now.map TraceEvent.request = (sc.take s.step.toNat).map Event.request := by
  simp only [State.TraceLegal, hb, CommandTraces]
  refine and_congr_right fun _ => ⟨?_, ?_⟩
  · rintro ⟨past, now, htrace, hpast, sc, hs, hle, hnow⟩
    exact ⟨past.flatten, now, sc, htrace, ⟨past, rfl, hpast⟩, hs, hle, hnow⟩
  · rintro ⟨_, now, sc, htrace, ⟨past, rfl, hpast⟩, hs, hle, hnow⟩
    exact ⟨past, now, htrace, hpast, sc, hs, hle, hnow⟩

/-- A legal trace is one command's piece after the other, the running one's among them. -/
theorem State.TraceLegal.commandTraces {s : State} (h : s.TraceLegal) : CommandTraces s.trace := by
  cases hq : s.seqState with
  | idle => exact ((traceLegal_idle_iff hq).1 h).2
  | busy =>
    obtain ⟨-, old, now, sc, htrace, hold, hs, -, hnow⟩ := (traceLegal_busy_iff hq).1 h
    rw [htrace]
    exact hold.append ⟨s.cmd, s.arg, sc, s.step.toNat, hs, hnow⟩

/-! ### The trace invariant -/

/-- Settles O57: nothing is in the trace. -/
theorem resetTraceIsLegal : Obligations.ResetTraceIsLegal := (traceLegal_idle_iff rfl).2 ⟨rfl, [], rfl, nofun⟩

/-- An event of the running script extends the command's own piece by its request; an abort closes the piece. -/
theorem State.TraceLegal.issue {s : State} (h : s.TraceLegal) (hb : s.seqState = .busy) {sc : List Event} {e : Event}
    (hs : script s.cmd s.arg = some sc) (he : sc[s.step.toNat]? = some e) : (issue e s).TraceLegal := by
  obtain ⟨hinj, old, now, sc', htrace, hold, hs', -, hnow⟩ := (traceLegal_busy_iff hb).1 h
  obtain rfl := Option.some.inj (hs.symm.trans hs')
  obtain ⟨inside, rfl⟩ := List.getElem?_eq_some_iff.1 he
  obtain ⟨x, hx, hx_trace⟩ := issue_trace sc[s.step.toNat] s
  obtain ⟨hcmd, harg, -⟩ := issue_frame sc[s.step.toNat] s
  have grown : (Machine.issue sc[s.step.toNat] s).trace = old ++ (now ++ [x]) := by rw [hx_trace, htrace, List.append_assoc]
  have requests : (now ++ [x]).map TraceEvent.request = (sc.take (s.step.toNat + 1)).map Event.request := by
    rw [List.take_succ_eq_append_getElem inside, List.map_append, List.map_append, hnow, List.map_singleton, List.map_singleton, hx]
  obtain advances | ⟨b, info, -, -, -, aborts⟩ := issue_outcome sc[s.step.toNat] s
  · have step_eq : (Machine.issue sc[s.step.toNat] s).step.toNat = s.step.toNat + 1 := by
      rw [advances.step, toNat_step_succ (by rwa [(script_length hs).2.2])]
    refine (traceLegal_busy_iff (advances.seqState.trans hb)).2 ⟨advances.inject.trans hinj, old, now ++ [x], sc, grown, hold, ?_⟩
    rw [hcmd, harg, step_eq]
    exact ⟨hs, inside, requests⟩
  · refine (traceLegal_idle_iff (by rw [aborts]; rfl)).2 ⟨by rw [aborts]; rfl, ?_⟩
    rw [grown]
    exact hold.append ⟨s.cmd, s.arg, sc, s.step.toNat + 1, hs, requests⟩

/-- Settles O58: a reset, waiting and completing leave the trace and close the running piece; accepting begins one; an event extends it. -/
theorem everyStepKeepsTheTraceLegal : Obligations.EveryStepKeepsTheTraceLegal := by
  intro s t h hstep
  have pieces := h.commandTraces
  have no_frame : s.inject = none := h.1
  cases hr : s.resetAsserted with
  | true =>
    cases (step_of_reset hr).symm.trans hstep
    exact (traceLegal_idle_iff rfl).2 ⟨rfl, pieces⟩
  | false =>
    have sampled : s.sampleReset.TraceLegal := h
    obtain ⟨-, -, rfl⟩ | ⟨c, arg, rest, -, -, known, rfl⟩ | ⟨sc, e, hb, -, hs, he, rfl⟩ | ⟨sc, hb, -, hs, -, rfl⟩ | ⟨w, f, e, -, hinj, -⟩ :=
      step_cases hr hstep
    · exact sampled
    · obtain ⟨sc, hs⟩ := Option.isSome_iff_exists.1 known
      exact (traceLegal_busy_iff rfl).2 ⟨rfl, s.trace, [], sc, (List.append_nil _).symm, pieces, hs, Nat.zero_le _, rfl⟩
    · exact sampled.issue hb hs he
    · obtain ⟨-, -, -, -, htrace, -, -, hinj, -⟩ := completeFor_frame s.cmd s.sampleReset
      exact (traceLegal_idle_iff (completeFor_seqState _ _)).2 ⟨hinj.trans no_frame, by rw [htrace]; exact pieces⟩
    · cases no_frame.symm.trans hinj

/-! ### The frames in a legal trace (30_encoding.md R82, 70_reset_and_hazards.md R240) -/

/-- An entry of a command's piece records the request of its script's event at the same place. -/
theorem event_of_entry {es : List TraceEvent} {sc : List Event} {n : Nat}
    (h : es.map TraceEvent.request = (sc.take n).map Event.request) {j : Nat} {x : TraceEvent} (hx : es[j]? = some x) :
    ∃ e, sc[j]? = some e ∧ e.request = x.request := by
  have recorded : ((sc.take n)[j]?).map Event.request = some x.request := by rw [← List.getElem?_map, ← h, List.getElem?_map, hx]; rfl
  obtain ⟨e, he, hreq⟩ := Option.map_eq_some_iff.1 recorded
  exact ⟨e, (List.getElem?_eq_some_iff.1 he).elim fun hlt heq => List.getElem?_eq_some_iff.2
    ⟨by rw [List.length_take] at hlt; omega, by rw [← heq, List.getElem_take]⟩, hreq⟩

/-- Where a SEL stands in a command's piece, a well-formed frame begins, and the entries after it record its requests. -/
theorem frame_of_sel {es : List TraceEvent} (h : CommandTrace es) {j : Nat} (hsel : es[j]? = some .sel) :
    ∃ f w, encode f = .frame w ∧ f.wellFormed = true ∧
      ∀ m < 5, ∀ x, es[j + m]? = some x → ((frameEvents f).map Event.request)[m]? = some x.request := by
  obtain ⟨c, arg, sc, n, hs, hreq⟩ := h
  obtain ⟨i, hi⟩ := command_of_script hs
  obtain ⟨e, he, hsel⟩ := event_of_entry hreq hsel
  obtain rfl : e = .sel := by
    cases e with
    | sel => rfl
    | desel | tx _ | cap _ => cases hsel
  obtain ⟨f, mem, place, hf⟩ := frame_of_place hi hs (List.getElem?_eq_some_iff.1 he).1
  obtain ⟨w, hw⟩ := encode_of_frame hf
  have first : j % 5 = 0 := place_of_sel hf ((script_getElem? hi hs place).symm.trans he)
  refine ⟨f, w, hw, wellFormed_of_mem_commandFrames f mem, fun m hm x hx => ?_⟩
  obtain ⟨e, he, hreq⟩ := event_of_entry hreq hx
  rw [show j + m = j / 5 * 5 + m by omega, script_getElem?_assertion hi hs place hm] at he
  rw [List.getElem?_map, he, Option.map_some, hreq]

/-- A command's piece begins with SEL. -/
theorem sel_of_head {es : List TraceEvent} (h : CommandTrace es) {x : TraceEvent} (hx : es[0]? = some x) : x = .sel := by
  obtain ⟨c, arg, sc, n, hs, hreq⟩ := h
  obtain ⟨e, he, hreq⟩ := event_of_entry hreq hx
  obtain ⟨-, places⟩ := everyFrameIsThreeTransfersInsideOneSelect c arg sc hs
  obtain rfl := Option.some.inj (he.symm.trans ((places 0 (List.getElem?_eq_some_iff.1 he).1).1 rfl))
  cases x with
  | sel => rfl
  | desel | tx _ _ => cases hreq

/-- So do pieces in a row. -/
theorem sel_of_head_flatten {past : List (List TraceEvent)} (h : ∀ es ∈ past, CommandTrace es) {x : TraceEvent}
    (hx : past.flatten[0]? = some x) : x = .sel := by
  induction past with
  | nil => cases hx
  | cons es past ih =>
    obtain ⟨hes, hpast⟩ := List.forall_mem_cons.1 h
    cases es with
    | nil => exact ih hpast hx
    | cons y es => exact sel_of_head hes hx

/-- A transfer after an entry of a piece belongs to the same piece, as the next piece begins with SEL. -/
theorem tx_inside {es rest : List TraceEvent} (hrest : ∀ {x}, rest[0]? = some x → x = .sel) {m : Nat} (hm : m < es.length) {b : Byte}
    {rx : XferAnswer} (h : (es ++ rest)[m + 1]? = some (.tx b rx)) : es[m + 1]? = some (.tx b rx) := by
  obtain inside | at_end := Nat.lt_or_eq_of_le (Nat.succ_le_of_lt hm)
  · rwa [List.getElem?_append_left inside] at h
  · rw [List.getElem?_append_right (Nat.le_of_eq at_end.symm), show m + 1 - es.length = 0 by omega] at h
    cases hrest h

/-- The transfers right after place `k` of `l`, up to three, stand right after place `j` of `es`. -/
def SameTransfers (l : List TraceEvent) (k : Nat) (es : List TraceEvent) (j : Nat) : Prop :=
  ∀ b rx, l[k + 1]? = some (.tx b rx) → es[j + 1]? = some (.tx b rx) ∧
    ∀ b1 rx1, l[k + 2]? = some (.tx b1 rx1) → es[j + 2]? = some (.tx b1 rx1) ∧
      ∀ b2 rx2, l[k + 3]? = some (.tx b2 rx2) → es[j + 3]? = some (.tx b2 rx2)

/-- A SEL and the transfers right after it stand in one piece. -/
theorem piece_of_sel {past : List (List TraceEvent)} (h : ∀ es ∈ past, CommandTrace es) {k : Nat} (hsel : past.flatten[k]? = some .sel) :
    ∃ es ∈ past, ∃ j, es[j]? = some .sel ∧ SameTransfers past.flatten k es j := by
  induction past generalizing k with
  | nil => cases hsel
  | cons es past ih =>
    obtain ⟨hes, hpast⟩ := List.forall_mem_cons.1 h
    rw [List.flatten_cons] at hsel ⊢
    by_cases here : k < es.length
    · rw [List.getElem?_append_left here] at hsel
      have inside {m : Nat} {b : Byte} {rx : XferAnswer} := tx_inside (es := es) (sel_of_head_flatten hpast) (m := m) (b := b) (rx := rx)
      refine ⟨es, List.mem_cons_self, k, hsel, fun b rx h1 => ?_⟩
      have h1 := inside here h1
      refine ⟨h1, fun b1 rx1 h2 => ?_⟩
      have h2 := inside (List.getElem?_eq_some_iff.1 h1).1 h2
      exact ⟨h2, fun b2 rx2 h3 => inside (List.getElem?_eq_some_iff.1 h2).1 h3⟩
    · obtain ⟨j, rfl⟩ := Nat.exists_eq_add_of_le' (Nat.le_of_not_lt here)
      have past_es (m : Nat) : (es ++ past.flatten)[j + es.length + m]? = past.flatten[j + m]? := by
        rw [List.getElem?_append_right (by omega), show j + es.length + m - es.length = j + m by omega]
      obtain ⟨fs, mem, n, hn, same⟩ := ih hpast ((past_es 0).symm.trans hsel)
      refine ⟨fs, List.mem_cons_of_mem es mem, n, hn, ?_⟩
      simp only [SameTransfers, past_es]
      exact same

/-- The top nibble of a frame's first byte is its kind. -/
theorem kind_of_byte0 (w : FrameWord) : (frameBytes w).byte0.extractLsb' 4 4 = w.extractLsb' 20 4 := by
  rw [← frameWord_fields w, frameBytes_append, kind_of_append]
  exact extract_upper _ _

/-- A frame kind with top nibble 0 is DUMMY, whose bytes are 0x00. -/
theorem frameBytes_of_kind_zero {f : Instr} {w : FrameWord} (hw : encode f = .frame w) (hk : w.extractLsb' 20 4 = 0#4) :
    frameBytes w = ⟨0x00, 0x00, 0x00⟩ := by
  have data_zero := data_of_encode hw (by rw [hk]; decide)
  rw [← frameWord_fields w, hk, data_zero]
  rfl

/-- Settles O59: the bytes after a SEL are those of a well-formed frame kind, as many as were sent. -/
theorem noReservedFrameIsEverSent : Obligations.NoReservedFrameIsEverSent := by
  intro s k b rx legal hsel hb
  obtain ⟨past, htrace, hpast⟩ := legal.commandTraces
  rw [htrace] at hsel hb ⊢
  obtain ⟨es, mem, j, hj, same⟩ := piece_of_sel hpast hsel
  obtain ⟨f, w, hw, formed, recorded⟩ := frame_of_sel (hpast es mem) hj
  rw [frameEncoderMatchesTheFrameKinds f w hw] at recorded
  obtain ⟨h1, same⟩ := same b rx hb
  obtain rfl : (frameBytes w).byte0 = b := TransportRequest.xfer.inj (Option.some.inj (recorded 1 (by decide) _ h1))
  rw [kind_of_byte0]
  have zero_bytes := frameBytes_of_kind_zero hw
  refine ⟨kind_of_encode hw, fun hk => by rw [zero_bytes hk], fun b1 rx1 hb1 => ?_⟩
  obtain ⟨h2, same⟩ := same b1 rx1 hb1
  obtain rfl : (frameBytes w).byte1 = b1 := TransportRequest.xfer.inj (Option.some.inj (recorded 2 (by decide) _ h2))
  refine ⟨fun hk => by rw [zero_bytes hk], fun b2 rx2 hb2 => ?_⟩
  obtain rfl : (frameBytes w).byte2 = b2 := TransportRequest.xfer.inj (Option.some.inj (recorded 3 (by decide) _ (same b2 rx2 hb2)))
  refine ⟨fun hk => by rw [zero_bytes hk], f, ?_, formed⟩
  rw [decodeFrameBytes, append_of_frameBytes]
  exact decodeFrame_of_encode hw

/-! ### Program text (30_encoding.md R88) -/

/-- Settles O60: the four texts are assembled. -/
theorem programTextAssembles : Obligations.ProgramTextAssembles := by
  refine ⟨?_, ?_, ?_, ?_⟩ <;> decide

end Sys2Proof.Machine
end
